-- ==== Sys2Proof/Word.lean ====
section
/-! DEFINITION. The word types of the block (00_scope.md §4, rules R3 and R4). -/

namespace Sys2Proof

/-- One byte of a link exchange (20_memory.md R61). -/
abbrev Byte := BitVec 8

/-- `WORD_WIDTH` = 16: a command, a response, a calibration word, a measurement. -/
abbrev Word16 := BitVec 16

/-- `ACC_WIDTH` = 64: a signed pipeline register (10_state.md R24), read with `BitVec.toInt`. -/
abbrev Acc := BitVec 64

/-- `OUT_WIDTH` = 32: a signed output register (10_state.md R26). -/
abbrev OutWord := BitVec 32

/-- `TIMER_WIDTH` = 32: milliseconds left to wait (10_state.md R36). -/
abbrev Millis := BitVec 32

end Sys2Proof
end

