-- ==== Sys2Proof/Machine/Flags.lean ====
section
/-! DEFINITION. The block's one condition code, `BR` (10_state.md R25), its setting (42_compensation.md R170), and the
range test behind `Fault(OVERFLOW)` (R182). -/

namespace Sys2Proof.Machine

/-- The second-order branch (42_compensation.md R170). -/
inductive Branch where
  | none
  | low
  | high
  deriving DecidableEq, Repr

/-- The code `BR` holds for a branch (10_state.md R25). -/
def Branch.code : Branch → BitVec 2
  | .none => 0b00
  | .low => 0b01
  | .high => 0b10

/-- `BR` read back: 0b11 has no meaning (10_state.md R25, 93_implementation_defined.md U9). -/
def branchOfCode (c : BitVec 2) : Option Branch :=
  if c = 0b00 then some .none
  else if c = 0b01 then some .low
  else if c = 0b10 then some .high
  else Option.none

/-- Step 8's selection by the first-order temperature, both comparisons strict (42_compensation.md R170, R177). -/
def branchOf (temp : Int) : Branch :=
  if temp < 200 then .low else if 400 < temp then .high else .none

/-- Is a value in the signed range of `w` bits (42_compensation.md R182)? -/
def inRange (w : Nat) (v : Int) : Bool := decide (-(2 ^ (w - 1)) ≤ v ∧ v < 2 ^ (w - 1))

end Sys2Proof.Machine
end

