-- ==== Sys2Proof/Syntax.lean ====
section
/-! DEFINITION. The rows of spec/opcode_table.json, the microprogram's statements (30_encoding.md R87) and the
formats an operation is encoded in (R80, R88). -/

namespace Sys2Proof

/-- One constructor per row of spec/opcode_table.json: seven wire constants and four micro-operations
(30_encoding.md R81, R88). No encoding carries an operand (R84). -/
inductive Instr where
  /-- The sensor reset pattern, phases 0 to 2 of every transaction (40_transport.md R110). -/
  | reset24
  /-- Read calibration word1 into `W1` (R111). -/
  | rdcal1
  /-- Read calibration word2 into `W2` (R112). -/
  | rdcal2
  /-- Read calibration word3 into `W3` (R113). -/
  | rdcal3
  /-- Read calibration word4 into `W4` (R114). -/
  | rdcal4
  /-- Start a pressure conversion and read d1 into `D1` (R115). -/
  | convd1
  /-- Start a temperature conversion and read d2 into `D2` (R116). -/
  | convd2
  /-- The coefficient decoder step (41_decoder.md R140). -/
  | decode
  /-- The compensation step (42_compensation.md R160). -/
  | compute
  /-- The report step (43_sequencer.md R215). -/
  | report
  /-- The inter-cycle wait (43_sequencer.md R216). -/
  | wait
  deriving DecidableEq, Repr

/-- The destination register of a transaction (30_encoding.md R81, column "dest"). -/
inductive Dest where
  | w1 | w2 | w3 | w4 | d1 | d2
  deriving DecidableEq, Repr

/-- A statement of the microprogram (30_encoding.md R87): `XFER <cmd>, <delay_ms> -> <reg>`, with the command
as its hex value, `DECODE`, `COMPUTE`, `REPORT`, `WAIT <ms>`. -/
inductive Stmt where
  | xfer (cmd : Word16) (delayMs : Millis) (dest : Dest)
  | decode
  | compute
  | report
  | wait (ms : Millis)
  deriving DecidableEq, Repr

/-- An operation as it is encoded: a 24-bit reset pattern (`F24`), a 16-bit command (`F16C`), or a value of `SEQ`
that selects a micro-operation (`SEQ`). The formats `F16R` and `FILL` of R80 encode no operation. -/
inductive Item where
  | f24 (pat : BitVec 24)
  | f16c (cmd : Word16)
  | seq (sel : BitVec 4)
  deriving DecidableEq, Repr

end Sys2Proof
end

