-- ==== Sys2Proof/WellFormed.lean ====
section
/-! DEFINITION. Which instructions and microprogram statements are well formed. -/

namespace Sys2Proof

/-- Every instruction is well formed: a row of the table is one constant, with no immediate and no register
field (30_encoding.md R84). -/
def Instr.wf : Instr → Bool
  | .reset24 | .rdcal1 | .rdcal2 | .rdcal3 | .rdcal4 | .convd1 | .convd2
  | .decode | .compute | .report | .wait => true

/-- The six commands a transaction may send (30_encoding.md R81). -/
def commandWords : List Word16 := [0x1D50, 0x1D60, 0x1D90, 0x1DA0, 0x0F40, 0x0F20]

/-- A statement is well formed if the command it names is one of the six of R81 (30_encoding.md R85, R87). -/
def Stmt.wf : Stmt → Bool
  | .xfer cmd _ _ => commandWords.contains cmd
  | .decode | .compute | .report | .wait _ => true

end Sys2Proof
end

