-- ==== Sys2Proof/Decode.lean ====
section
/-! DEFINITION. The wire constants, the decoder and the encoder (30_encoding.md). -/

namespace Sys2Proof

/-- `v[15:8]` (00_scope.md R3). -/
def hiByte (v : Word16) : Byte := v.extractLsb' 8 8

/-- `v[7:0]` (00_scope.md R3). -/
def loByte (v : Word16) : Byte := v.extractLsb' 0 8

/-- `{hi, lo}`, most significant byte first (20_memory.md R64, 30_encoding.md R84). -/
def wordOfBytes (hi lo : Byte) : Word16 := hi ++ lo

/-- The bytes of a 24-bit pattern in the order they are sent (20_memory.md R63). -/
def patBytes (p : BitVec 24) : Byte × Byte × Byte :=
  (p.extractLsb' 16 8, p.extractLsb' 8 8, p.extractLsb' 0 8)

/-- The bits of a byte in the order they go on the wire, the most significant first (20_memory.md R62). -/
def msbFirst (b : Byte) : List Bool :=
  [b.getLsbD 7, b.getLsbD 6, b.getLsbD 5, b.getLsbD 4, b.getLsbD 3, b.getLsbD 2, b.getLsbD 1, b.getLsbD 0]

/-! The wire constants of 30_encoding.md R81. -/

def resetPattern : BitVec 24 := 0x155540
def cmdRdcal1 : Word16 := 0x1D50
def cmdRdcal2 : Word16 := 0x1D60
def cmdRdcal3 : Word16 := 0x1D90
def cmdRdcal4 : Word16 := 0x1DA0
def cmdConvd1 : Word16 := 0x0F40
def cmdConvd2 : Word16 := 0x0F20

/-- Why the decoder refuses. -/
inductive DecodeError where
  /-- A 24-bit value other than 0x155540 (R83, R85). -/
  | notResetPattern
  /-- A 16-bit value that is none of the six commands (R83, R85). -/
  | notCommand
  /-- A value of `SEQ` that selects no micro-operation: an XFER step, or 10 to 15 (R88). -/
  | notMicroOp
  /-- Bytes of a length that no format has (R80). -/
  | badLength
  deriving DecidableEq, Repr

/-- A value in reset position: all 24 bits are compared (30_encoding.md R83). -/
def decodeF24 (p : BitVec 24) : Except DecodeError Instr :=
  if p = resetPattern then .ok .reset24 else .error .notResetPattern

/-- A value in command position: all 16 bits are compared (30_encoding.md R83). -/
def decodeF16C (c : Word16) : Except DecodeError Instr :=
  if c = cmdRdcal1 then .ok .rdcal1
  else if c = cmdRdcal2 then .ok .rdcal2
  else if c = cmdRdcal3 then .ok .rdcal3
  else if c = cmdRdcal4 then .ok .rdcal4
  else if c = cmdConvd1 then .ok .convd1
  else if c = cmdConvd2 then .ok .convd2
  else .error .notCommand

/-- The value of `SEQ` that selects a micro-operation sending no command (30_encoding.md R88). -/
def decodeSeq (s : BitVec 4) : Except DecodeError Instr :=
  if s = 4 then .ok .decode
  else if s = 7 then .ok .compute
  else if s = 8 then .ok .report
  else if s = 9 then .ok .wait
  else .error .notMicroOp

/-- The decoder, total on every encoded operation. -/
def decode : Item → Except DecodeError Instr
  | .f24 p => decodeF24 p
  | .f16c c => decodeF16C c
  | .seq s => decodeSeq s

/-- Bytes, in the order they are sent, as an encoded operation: the position in a transaction, and so the length,
tells the format (30_encoding.md R86). One byte is a value of `SEQ`, which has 4 bits (R88). -/
def itemOfBytes : List Byte → Except DecodeError Item
  | [a, b, c] => .ok (.f24 (a ++ b ++ c))
  | [a, b] => .ok (.f16c (wordOfBytes a b))
  | [a] => if a.toNat < 16 then .ok (.seq (a.extractLsb' 0 4)) else .error .notMicroOp
  | _ => .error .badLength

/-- The decoder on any bytes. -/
def decodeBytes (bs : List Byte) : Except DecodeError Instr :=
  match itemOfBytes bs with
  | .ok it => decode it
  | .error e => .error e

/-- Is this 16-bit value a command of 30_encoding.md R81? -/
def isCommand (c : Word16) : Bool :=
  match decodeF16C c with
  | .ok _ => true
  | .error _ => false

/-- The encoder (30_encoding.md R81, R88). -/
def encode : Instr → Item
  | .reset24 => .f24 resetPattern
  | .rdcal1 => .f16c cmdRdcal1
  | .rdcal2 => .f16c cmdRdcal2
  | .rdcal3 => .f16c cmdRdcal3
  | .rdcal4 => .f16c cmdRdcal4
  | .convd1 => .f16c cmdConvd1
  | .convd2 => .f16c cmdConvd2
  | .decode => .seq 4
  | .compute => .seq 7
  | .report => .seq 8
  | .wait => .seq 9

/-- An encoded operation as bytes, in the order they are sent (20_memory.md R63, R64). -/
def bytesOfItem : Item → List Byte
  | .f24 p => [(patBytes p).1, (patBytes p).2.1, (patBytes p).2.2]
  | .f16c c => [hiByte c, loByte c]
  | .seq s => [s.setWidth 8]

/-- An instruction's bytes. -/
def encodeBytes (i : Instr) : List Byte := bytesOfItem (encode i)

/-- The bytes of a word of spec/opcode_table.json. A 24-bit word is a reset pattern, a 16-bit word that is a command
is that command. The rows of format `SEQ` have 4 bits (mask 0xF); the table's reader gives them one more bit, named
`SEQ`, whose number is the value of `SEQ` (log 12): both readings of the word give the one byte that holds `SEQ`. -/
def tableBytes (nbits w : Nat) : List Byte :=
  if nbits = 24 then [BitVec.ofNat 8 (w / 65536), BitVec.ofNat 8 (w / 256), BitVec.ofNat 8 w]
  else if nbits = 16 ∧ isCommand (BitVec.ofNat 16 w) then [BitVec.ofNat 8 (w / 256), BitVec.ofNat 8 w]
  else if w < 16 ∨ w = w % 16 + 2 ^ (w % 16) then [BitVec.ofNat 8 (w % 16)]
  else []

/-- The instruction the decoder reads from a word of spec/opcode_table.json, numbered as the table numbers it. -/
def decodeTableWord (nbits w : Nat) : Option Instr :=
  match decodeBytes (tableBytes nbits w) with
  | .ok i => some i
  | .error _ => none

end Sys2Proof
end

