-- ==== Sys2Proof/Config.lean ====
section
/-! DEFINITION. What an implementation fixes (00_scope.md §4), and the free values: every `opaque` below has no
body, so no proof can rest on a value of it. -/

namespace Sys2Proof

/-- One clock-phase and polarity configuration of the link (10_state.md R35). -/
structure ElectricalMode where
  polarity : Bool
  phase    : Bool
  deriving DecidableEq, Repr, Inhabited

/-- `ACC_WIDTH` (00_scope.md §4, 42_compensation.md R161): the width a pipeline value must fit (R182). -/
def Config.accWidth : Nat := 64

/-- `MODE_CMD`, OPEN (92_eei_decisions.md D8; log 15). -/
opaque Config.modeCmd : ElectricalMode

/-- `MODE_RESP`, OPEN (92_eei_decisions.md D8; log 15). -/
opaque Config.modeResp : ElectricalMode

/-- `LINK_HZ`, OPEN (92_eei_decisions.md D9; log 15). No rule depends on it. -/
opaque Config.linkHz : Nat

/-- `MCLK_HZ`, OPEN (92_eei_decisions.md D28; log 15). The clock is external. -/
opaque Config.mclkHz : Nat

/-- `COMPUTE_LATENCY`, OPEN and unobservable (70_reset_and_hazards.md R290; log 15). -/
opaque Config.computeLatency : Nat

/-- FREE VALUE (log 3): is `rst` asserted in clock `n`, where `State.inputs` does not say. -/
opaque Config.rstAt : Nat → Bool

/-- FREE VALUE (log 3): does a `TICK` come in clock `n`, where `State.inputs` does not say. -/
opaque Config.tickAt : Nat → Bool

/-- FREE VALUE (log 3): the link collaborator's completion and received byte in clock `n`, where
`State.inputs` does not say: the draw of 40_transport.md R121. -/
opaque Config.linkAt : Nat → Option Byte

/-- FREE VALUE (log 9): what REPORT would put into a 32-bit output register for a 64-bit value outside its
range. 00_scope.md R6 says that no write falls outside the range. -/
opaque Config.outOfRange : Acc → OutWord

end Sys2Proof
end

