-- ==== Sys2Proof/Machine/State.lean ====
section
/-! DEFINITION. The block's state as plain data (10_state.md R20), what stops a step, and the state after reset. -/

namespace Sys2Proof.Machine

/-- The fault reasons of 60_exceptions.md R241, a closed list. Each is raised before the step writes anything. The
hardware reaches none of them. -/
inductive Fault where
  /-- Raised by DECODE, COMPUTE, REPORT and phase 7 of a transaction when they read a register that holds no value
  (10_state.md R20). Safe: it stops where the hardware would go on. No state a run reaches from reset has it. -/
  | readUnwritten
  /-- Raised by the sequencer when `SEQ` holds 10 to 15 (43_sequencer.md R211). Safe. -/
  | badSeq
  /-- Raised by the transport unit when a transaction would send a value not in 30_encoding.md R81 (R85). Safe. -/
  | refusedCmd
  /-- Raised by COMPUTE when a value leaves the `ACC_WIDTH` range (42_compensation.md R182). Safe. -/
  | overflow
  deriving DecidableEq, Repr

/-- What the model has no meaning for. -/
inductive Refusal where
  /-- Answered by an arm of `exec` whose instruction has no meaning yet (no arm does). Safe. -/
  | notModelled (mnemonic : String)
  /-- Answered by COMPUTE where step 8 would read `BR = 0b11`, which no rule writes and no rule gives a meaning
  (10_state.md R25, 93_implementation_defined.md U9). Safe. -/
  | badBranchCode
  deriving DecidableEq, Repr

/-- `LINK_MODE` (10_state.md R35): `cmd` is 0 = `MODE_CMD`, `resp` is 1 = `MODE_RESP`. -/
inductive LinkMode where
  | cmd
  | resp
  deriving DecidableEq, Repr

/-- The record of `Emit Report` (43_sequencer.md R215). -/
structure Report where
  w1 : Word16
  w2 : Word16
  w3 : Word16
  w4 : Word16
  d1 : Word16
  d2 : Word16
  temp : Acc
  pres : Acc
  deriving DecidableEq, Repr

/-- An event of the run (43_sequencer.md R218): a link exchange with its mode, the byte sent and the byte received,
or a report. -/
inductive Event where
  | exchange (mode : LinkMode) (tx rx : Byte)
  | report (r : Report)
  deriving DecidableEq, Repr

/-- What the environment does in one clock (10_state.md R29, 60_exceptions.md R251): whether `rst` is asserted,
whether a `TICK` comes, and the link collaborator's completion, with the byte received, of the exchange the block
requests in this clock. `none` is "not complete yet". An answer to no request is ignored (log 19). -/
structure Input where
  rst : Bool
  tick : Bool
  answer : Option Byte
  deriving DecidableEq, Repr

/-- `W1` to `W4`, `D1` and `D2` (10_state.md R22). `none` is the spec's "no value" (R20; log 2). -/
structure RawWords where
  w1 : Option Word16
  w2 : Option Word16
  w3 : Option Word16
  w4 : Option Word16
  d1 : Option Word16
  d2 : Option Word16
  deriving DecidableEq, Repr

/-- `C1` to `C6` (10_state.md R23), of 15, 12, 10, 10, 11 and 6 bits (41_decoder.md R147). -/
structure Coefs where
  c1 : Option (BitVec 15)
  c2 : Option (BitVec 12)
  c3 : Option (BitVec 10)
  c4 : Option (BitVec 10)
  c5 : Option (BitVec 11)
  c6 : Option (BitVec 6)
  deriving DecidableEq, Repr

/-- The pipeline registers `UT1` to `P_FIN` (10_state.md R24) and the branch code `BR` (R25). -/
structure Pipe where
  ut1 : Option Acc
  dt : Option Acc
  temp : Option Acc
  off : Option Acc
  sens : Option Acc
  x : Option Acc
  p : Option Acc
  br : Option (BitVec 2)
  t2 : Option Acc
  p2 : Option Acc
  tempFin : Option Acc
  pFin : Option Acc
  deriving DecidableEq, Repr

/-- The output registers `TEMP_OUT`, `P_OUT` and `VALID` (10_state.md R26). -/
structure Outputs where
  tempOut : Option OutWord
  pOut : Option OutWord
  valid : Bool
  deriving DecidableEq, Repr

/-- The state of the block, and the model's own record of its environment.
Registers (10_state.md R20): `raw`, `coefs`, `pipe`, `outs`; `seq` is `SEQ`, the program counter (R33); `ph` is `PH`
(R34); `linkMode` is `LINK_MODE` (R35); `timer` is `TIMER` (R36); `rxh` is `RXH` (R37).
The model's own fields: `events` is the event history of 43_sequencer.md R218, the newest first (log 6); `inputs` is
what the environment does in the coming clocks, where it is given, and `clock` counts the clocks (log 3). -/
structure State where
  raw : RawWords
  coefs : Coefs
  pipe : Pipe
  outs : Outputs
  seq : BitVec 4
  ph : BitVec 3
  linkMode : LinkMode
  timer : Millis
  rxh : Option Byte
  events : List Event
  inputs : List Input
  clock : Nat
  deriving DecidableEq, Repr

/-- The state after block reset (70_reset_and_hazards.md R270, R271): `SEQ = 0`, `PH = 0`, `LINK_MODE = MODE_CMD`,
`TIMER = 0`, `VALID = 0`. Every other register is UNSPECIFIED in the spec and holds zero here: DESIGN CHOICE, unsafe,
log 1. -/
def State.reset : State where
  raw := { w1 := some 0, w2 := some 0, w3 := some 0, w4 := some 0, d1 := some 0, d2 := some 0 }
  coefs := { c1 := some 0, c2 := some 0, c3 := some 0, c4 := some 0, c5 := some 0, c6 := some 0 }
  pipe :=
    { ut1 := some 0, dt := some 0, temp := some 0, off := some 0, sens := some 0, x := some 0, p := some 0,
      br := some 0, t2 := some 0, p2 := some 0, tempFin := some 0, pFin := some 0 }
  outs := { tempOut := some 0, pOut := some 0, valid := false }
  seq := 0
  ph := 0
  linkMode := .cmd
  timer := 0
  rxh := some 0
  events := []
  inputs := []
  clock := 0

end Sys2Proof.Machine
end

