-- ==== Sys2Proof/Machine/Ops.lean ====
section
/-! DEFINITION. The named operations over the registers, the link, the timer and the report port; block reset. -/

namespace Sys2Proof.Machine

/-- The answer of one clock. -/
abbrev Answer := Host.Outcome State Fault Refusal

/-! ### Register writes: the one place each group of registers is written. -/

def State.setRaw (s : State) (r : RawWords) : State := { s with raw := r }
def State.setCoefs (s : State) (c : Coefs) : State := { s with coefs := c }
def State.setPipe (s : State) (p : Pipe) : State := { s with pipe := p }
def State.setOutputs (s : State) (o : Outputs) : State := { s with outs := o }
def State.setSeq (s : State) (q : BitVec 4) : State := { s with seq := q }
def State.setPh (s : State) (p : BitVec 3) : State := { s with ph := p }
def State.setLinkMode (s : State) (m : LinkMode) : State := { s with linkMode := m }
def State.setTimer (s : State) (n : Millis) : State := { s with timer := n }
def State.setRxh (s : State) (b : Byte) : State := { s with rxh := some b }

/-- A transaction's destination register, written with the response word (40_transport.md R105). -/
def RawWords.write (r : RawWords) (dest : Dest) (v : Word16) : RawWords :=
  match dest with
  | .w1 => { r with w1 := some v }
  | .w2 => { r with w2 := some v }
  | .w3 => { r with w3 := some v }
  | .w4 => { r with w4 := some v }
  | .d1 => { r with d1 := some v }
  | .d2 => { r with d2 := some v }

/-- A destination register, read. -/
def RawWords.read (r : RawWords) (dest : Dest) : Option Word16 :=
  match dest with
  | .w1 => r.w1
  | .w2 => r.w2
  | .w3 => r.w3
  | .w4 => r.w4
  | .d1 => r.d1
  | .d2 => r.d2

/-! ### The environment -/

/-- The free draw of a clock's input (40_transport.md R121; log 3). -/
def drawInput (n : Nat) : Input :=
  { rst := Config.rstAt n, tick := Config.tickAt n, answer := Config.linkAt n }

/-- What the environment does in this clock: what `inputs` says, or else a free draw (log 3). -/
def State.input (s : State) : Input :=
  match s.inputs with
  | i :: _ => i
  | [] => drawInput s.clock

/-- `TIMER` after a clock with or without a tick: a tick decrements it, and at 0 the tick is lost
(60_exceptions.md R247). -/
def tickTimer (tick : Bool) (t : Millis) : Millis :=
  if tick = true ∧ t ≠ 0 then t - 1 else t

/-- What every clock without reset does, whatever else it does: the tick, if one comes, reaches `TIMER`, and the
clock's input is used up. A phase that loads `TIMER` overwrites this value, so a tick in the same clock is absorbed
(60_exceptions.md R243, R248; log 4). -/
def State.elapse (s : State) : State :=
  { s with timer := tickTimer s.input.tick s.timer, inputs := s.inputs.tail, clock := s.clock + 1 }

/-- A clock in which the block's step is not enabled (43_sequencer.md R211): it holds. -/
def hold (s : State) : Answer := .next s.elapse

/-- A phase that makes an exchange: enabled when the link collaborator completes it, with the byte received
(40_transport.md R100, 43_sequencer.md R211). -/
def onAnswer (s : State) (f : Byte → Answer) : Answer :=
  match s.input.answer with
  | some rx => f rx
  | none => hold s

/-- One completed exchange enters the event history (20_memory.md R70, 43_sequencer.md R218). -/
def State.exchange (s : State) (mode : LinkMode) (tx rx : Byte) : State :=
  { s with events := .exchange mode tx rx :: s.events }

/-- `Emit Report` (43_sequencer.md R215). -/
def State.emit (s : State) (r : Report) : State :=
  { s with events := .report r :: s.events }

/-! ### Reset -/

/-- A clock with `rst` asserted (70_reset_and_hazards.md R270, R272, R273): every register takes its reset value,
whatever was in progress is abandoned, no exchange and no report is made, a tick is lost. Events already observed
stay observed. -/
def blockReset (s : State) : State :=
  { State.reset with events := s.events, inputs := s.inputs.tail, clock := s.clock + 1 }

/-! ### The phases of a transaction (40_transport.md R101) -/

/-- Phases 0 to 2 (40_transport.md R102): the reset pattern, `LINK_MODE` being written before the first exchange.
Any other value of `PH` is no phase of it and has no enabled step (log 8). -/
def resetPhase (s : State) : Answer :=
  onAnswer s fun rx =>
    if s.ph = 0 then
      .next (((s.elapse.setLinkMode .cmd).exchange .cmd (patBytes resetPattern).1 rx).setPh 1)
    else if s.ph = 1 then
      .next ((s.elapse.exchange .cmd (patBytes resetPattern).2.1 rx).setPh 2)
    else if s.ph = 2 then
      .next ((s.elapse.exchange .cmd (patBytes resetPattern).2.2 rx).setPh 3)
    else hold s

/-- Phase 3 (40_transport.md R103): the command's high byte. -/
def commandHiPhase (cmd : Word16) (s : State) : Answer :=
  onAnswer s fun rx => .next ((s.elapse.exchange .cmd (hiByte cmd) rx).setPh 4)

/-- Phase 4 (40_transport.md R103): the command's low byte, then the timer's load if there is a delay. -/
def commandLoPhase (cmd : Word16) (delay : Millis) (s : State) : Answer :=
  onAnswer s fun rx =>
    if 0 < delay.toNat then
      .next (((s.elapse.exchange .cmd (loByte cmd) rx).setTimer delay).setPh 5)
    else
      .next ((s.elapse.exchange .cmd (loByte cmd) rx).setPh 6)

/-- Phase 5 (40_transport.md R103): the conversion wait, enabled when `TIMER = 0`. -/
def conversionPhase (s : State) : Answer :=
  if s.timer = 0 then .next (s.elapse.setPh 6) else hold s

/-- Phase 6 (40_transport.md R104): the mode switch and the response's first byte. -/
def responseHiPhase (s : State) : Answer :=
  onAnswer s fun rx =>
    .next ((((s.elapse.setLinkMode .resp).exchange .resp 0x00 rx).setRxh rx).setPh 7)

/-- Phase 7 (40_transport.md R105): the response's second byte, the destination's write, the step's end. -/
def responseLoPhase (dest : Dest) (s : State) : Answer :=
  onAnswer s fun rx =>
    match s.rxh with
    | none => .fault .readUnwritten
    | some hi =>
      .next ((((s.elapse.exchange .resp 0x00 rx).setRaw (s.raw.write dest (wordOfBytes hi rx))).setPh 0).setSeq
        (s.seq + 1))

/-- One clock of `XFER cmd, delay -> dest` at phase `PH` (40_transport.md R101). A value that is no command is
refused in every phase, so that nothing is sent (30_encoding.md R85; log 23). -/
def transaction (cmd : Word16) (delay : Millis) (dest : Dest) (s : State) : Answer :=
  if isCommand cmd = false then .fault .refusedCmd
  else if s.ph = 3 then commandHiPhase cmd s
  else if s.ph = 4 then commandLoPhase cmd delay s
  else if s.ph = 5 then conversionPhase s
  else if s.ph = 6 then responseHiPhase s
  else if s.ph = 7 then responseLoPhase dest s
  else resetPhase s

/-- One clock of `WAIT ms` (43_sequencer.md R216). `PH` other than 0 and 1 has no enabled step (log 8). -/
def waitPhase (ms : Millis) (s : State) : Answer :=
  if s.ph = 0 then .next ((s.elapse.setTimer ms).setPh 1)
  else if s.ph = 1 then
    if s.timer = 0 then .next ((s.elapse.setPh 0).setSeq 0) else hold s
  else hold s

end Sys2Proof.Machine
end

