-- ==== Sys2Proof/Machine/Operands.lean ====
section
/-! DEFINITION. The operands: the microprogram's constants and table (43_sequencer.md R210), what a step fetches,
the registers the micro-operations read, and the output ports. -/

namespace Sys2Proof.Machine

/-! ### The constant store (10_state.md R38) -/

/-- `T_CAL_MS`: no wait after a calibration command (70_reset_and_hazards.md R285). -/
def tCalMs : Millis := 0

/-- `T_CONV_MS`: the conversion wait (00_scope.md §4). -/
def tConvMs : Millis := 35

/-- `T_CYCLE_MS`: the inter-cycle wait (00_scope.md §4). -/
def tCycleMs : Millis := 5000

/-- The microprogram (43_sequencer.md R210). `SEQ` 10 to 15 select nothing (R211). -/
def microprogram (q : BitVec 4) : Option Stmt :=
  if q = 0 then some (.xfer cmdRdcal1 tCalMs .w1)
  else if q = 1 then some (.xfer cmdRdcal2 tCalMs .w2)
  else if q = 2 then some (.xfer cmdRdcal3 tCalMs .w3)
  else if q = 3 then some (.xfer cmdRdcal4 tCalMs .w4)
  else if q = 4 then some .decode
  else if q = 5 then some (.xfer cmdConvd1 tConvMs .d1)
  else if q = 6 then some (.xfer cmdConvd2 tConvMs .d2)
  else if q = 7 then some .compute
  else if q = 8 then some .report
  else if q = 9 then some (.wait tCycleMs)
  else none

/-- The encoded operation a clock runs (43_sequencer.md R211, 30_encoding.md R86, R88): in an XFER step the reset
pattern in phases 0 to 2 and the command from phase 3 on (log 11), in the other steps the value of `SEQ`. -/
def fetchItem (s : State) : Option Item :=
  match microprogram s.seq with
  | none => none
  | some (.xfer cmd _ _) => if s.ph.toNat < 3 then some (.f24 resetPattern) else some (.f16c cmd)
  | some .decode => some (.seq s.seq)
  | some .compute => some (.seq s.seq)
  | some .report => some (.seq s.seq)
  | some (.wait _) => some (.seq s.seq)

/-- The instruction a clock runs, with the faults of 60_exceptions.md R241 in the order of R243. -/
def fetch (s : State) : Except Fault Instr :=
  match fetchItem s with
  | none => .error .badSeq
  | some it =>
    match decode it with
    | .ok i => .ok i
    | .error _ => .error .refusedCmd

/-- Where the constant store holds an instruction: the values of `SEQ` and `PH` at which `fetch` gives it (log 10,
log 11). -/
def storePlace : Instr → BitVec 4 × BitVec 3
  | .reset24 => (0, 0)
  | .rdcal1 => (0, 3)
  | .rdcal2 => (1, 3)
  | .rdcal3 => (2, 3)
  | .rdcal4 => (3, 3)
  | .decode => (4, 0)
  | .convd1 => (5, 3)
  | .convd2 => (6, 3)
  | .compute => (7, 0)
  | .report => (8, 0)
  | .wait => (9, 0)

/-- An uneventful clock in which the link collaborator completes what the block asks for. -/
def quietInput : Input := { rst := false, tick := false, answer := some 0 }

/-! ### Register reads -/

/-- The values of `W1` to `W4`. -/
structure WordVals where
  w1 : Word16
  w2 : Word16
  w3 : Word16
  w4 : Word16
  deriving DecidableEq, Repr

/-- The values of `D1` and `D2`. -/
structure MeasVals where
  d1 : Word16
  d2 : Word16
  deriving DecidableEq, Repr

/-- The values of `C1` to `C6`. -/
structure CoefVals where
  c1 : BitVec 15
  c2 : BitVec 12
  c3 : BitVec 10
  c4 : BitVec 10
  c5 : BitVec 11
  c6 : BitVec 6
  deriving DecidableEq, Repr

/-- The values of `TEMP_FIN` and `P_FIN`. -/
structure FinVals where
  temp : Acc
  pres : Acc
  deriving DecidableEq, Repr

/-- Reading `W1` to `W4`: nothing if one of them holds no value (10_state.md R20). -/
def RawWords.words (r : RawWords) : Option WordVals :=
  match r.w1, r.w2, r.w3, r.w4 with
  | some w1, some w2, some w3, some w4 => some ⟨w1, w2, w3, w4⟩
  | _, _, _, _ => none

/-- Reading `D1` and `D2`. -/
def RawWords.meas (r : RawWords) : Option MeasVals :=
  match r.d1, r.d2 with
  | some d1, some d2 => some ⟨d1, d2⟩
  | _, _ => none

/-- Reading `C1` to `C6`. -/
def Coefs.vals (c : Coefs) : Option CoefVals :=
  match c.c1, c.c2, c.c3, c.c4, c.c5, c.c6 with
  | some c1, some c2, some c3, some c4, some c5, some c6 => some ⟨c1, c2, c3, c4, c5, c6⟩
  | _, _, _, _, _, _ => none

/-- Reading `TEMP_FIN` and `P_FIN`. -/
def Pipe.fin (p : Pipe) : Option FinVals :=
  match p.tempFin, p.pFin with
  | some t, some q => some ⟨t, q⟩
  | _, _ => none

/-- Registers that hold these coefficients. -/
def CoefVals.regs (v : CoefVals) : Coefs :=
  { c1 := some v.c1, c2 := some v.c2, c3 := some v.c3, c4 := some v.c4, c5 := some v.c5, c6 := some v.c6 }

/-! ### Reports and output registers (43_sequencer.md R215) -/

/-- The record REPORT emits. -/
def reportOf (w : WordVals) (m : MeasVals) (f : FinVals) : Report :=
  { w1 := w.w1, w2 := w.w2, w3 := w.w3, w4 := w.w4, d1 := m.d1, d2 := m.d2, temp := f.temp, pres := f.pres }

/-- Does a signed value fit an output register of 32 bits? -/
def fitsOut (v : Acc) : Bool := decide (-(2 ^ 31) ≤ v.toInt ∧ v.toInt < 2 ^ 31)

/-- A 64-bit result in a 32-bit output register: the same integer (42_compensation.md R181 item 3). Outside the range
of the register, into which the spec says no write falls (00_scope.md R6), a free value (log 9). -/
def toOut (v : Acc) : OutWord :=
  if fitsOut v then v.setWidth 32 else Config.outOfRange v

/-! ### Ports: outputs that are functions of the state and of this clock's `rst` (40_transport.md R100,
43_sequencer.md R215, 70_reset_and_hazards.md R270; log 7, log 24, log 25) -/

/-- The command of the transaction in progress, if this is an XFER step. -/
def currentCmd (s : State) : Option Word16 :=
  match microprogram s.seq with
  | some (.xfer cmd _ _) => some cmd
  | _ => none

/-- `lk_req`: an exchange is requested. Low while `rst` is asserted, and in the conversion wait. -/
def lkReq (s : State) : Bool := !s.input.rst && (currentCmd s).isSome && decide (s.ph ≠ 5)

/-- `lk_mode`: while an exchange is requested, its mode (40_transport.md R100, 30_encoding.md R86). The spec gives the port
no value while `lk_req` is low (DECODE, COMPUTE, REPORT, WAIT, the conversion wait, `rst`); there the model shows
`LINK_MODE`, which the link collaborator reads (10_state.md R20): DESIGN CHOICE, log 24. -/
def lkMode (s : State) : LinkMode :=
  if lkReq s = false then s.linkMode else if s.ph.toNat < 6 then .cmd else .resp

/-- The byte of the exchange at phase `PH` of `XFER cmd` (30_encoding.md R86), where the phase has one. -/
def phaseByte (cmd : Word16) (ph : BitVec 3) : Option Byte :=
  if ph = 0 then some (patBytes resetPattern).1
  else if ph = 1 then some (patBytes resetPattern).2.1
  else if ph = 2 then some (patBytes resetPattern).2.2
  else if ph = 3 then some (hiByte cmd)
  else if ph = 4 then some (loByte cmd)
  else if ph = 5 then none
  else some 0x00

/-- `lk_tx`: while an exchange is requested, its byte (40_transport.md R100). The spec gives the port no value while `lk_req`
is low, and the model shows none there: DESIGN CHOICE, log 24. -/
def lkTx (s : State) : Option Byte :=
  if lkReq s then (currentCmd s).bind (phaseByte · s.ph) else none

/-- `rpt_valid`: high for the one clock of the REPORT step. Low while `rst` is asserted. -/
def rptValid (s : State) : Bool := !s.input.rst && decide (s.seq = 8)

/-- The newest report of an event history; none where there is no report yet, before the first REPORT of a run: the spec
does not say what `rpt_*` carry there (DESIGN CHOICE, log 25). -/
def lastReport : List Event → Option Report
  | [] => none
  | .report r :: _ => some r
  | .exchange _ _ _ :: es => lastReport es

/-- `rpt_*`: the eight fields, in the clock of `rpt_valid` and until the next REPORT (43_sequencer.md R215); across block
reset too (log 7). Before the first REPORT there are none (DESIGN CHOICE, log 25). -/
def rptData (s : State) : Option Report :=
  if rptValid s then
    match s.raw.words, s.raw.meas, s.pipe.fin with
    | some w, some m, some f => some (reportOf w m f)
    | _, _, _ => none
  else lastReport s.events

/-- What the reporting collaborator may take for a result: `TEMP_OUT` and `P_OUT` while `VALID = 1`
(10_state.md R26, 60_exceptions.md R252). -/
def resultPort (s : State) : Option (OutWord × OutWord) :=
  if s.outs.valid then
    match s.outs.tempOut, s.outs.pOut with
    | some t, some p => some (t, p)
    | _, _ => none
  else none

end Sys2Proof.Machine
end

