-- ==== Sys2Proof/Machine/Compensation.lean ====
section
/-! DEFINITION. The compensation pipeline (42_compensation.md): exact integers, floor shifts (R161, R162), narrowed to
the 64-bit registers at the end. -/

namespace Sys2Proof.Machine

/-- `a >> k` is `floor(a / 2^k)`, for negative `a` too (00_scope.md R5, 42_compensation.md R162). -/
def floorShift (a : Int) (k : Nat) : Int := a / 2 ^ k

/-- The inputs of COMPUTE as integers, zero extended (42_compensation.md R161). -/
structure CompIn where
  c1 : Int
  c2 : Int
  c3 : Int
  c4 : Int
  c5 : Int
  c6 : Int
  d1 : Int
  d2 : Int
  deriving DecidableEq, Repr

/-- Zero extension of the registers COMPUTE reads. -/
def compIn (c : CoefVals) (m : MeasVals) : CompIn :=
  { c1 := c.c1.toNat, c2 := c.c2.toNat, c3 := c.c3.toNat, c4 := c.c4.toNat, c5 := c.c5.toNat, c6 := c.c6.toNat,
    d1 := m.d1.toNat, d2 := m.d2.toNat }

/-! ### One function per step -/

/-- Step 1 (42_compensation.md R163). -/
def ut1Of (c5 : Int) : Int := 8 * c5 + 20224

/-- Step 2 (42_compensation.md R164). -/
def dtOf (d2 ut1 : Int) : Int := d2 - ut1

/-- Step 3 (42_compensation.md R165). -/
def tempOf (dt c6 : Int) : Int := 200 + floorShift (dt * (c6 + 50)) 10

/-- Step 4 (42_compensation.md R166). -/
def offOf (c2 c4 dt : Int) : Int := c2 * 4 + floorShift ((c4 - 512) * dt) 12

/-- Step 5 (42_compensation.md R167). -/
def sensOf (c1 c3 dt : Int) : Int := c1 + floorShift (c3 * dt) 10 + 24576

/-- Step 6 (42_compensation.md R168). -/
def xOf (sens d1 off : Int) : Int := floorShift (sens * (d1 - 7168)) 14 - off

/-- Step 7 (42_compensation.md R169). -/
def pOf (x : Int) : Int := floorShift (x * 10) 5 + 2500

/-- The product of step 8's `t2`, before its shift (42_compensation.md R171 to R173). -/
def t2Prod (b : Branch) (c6 temp : Int) : Int :=
  match b with
  | .low => 11 * (c6 + 24) * ((200 - temp) * (200 - temp))
  | .high => 3 * (c6 + 24) * ((450 - temp) * (450 - temp))
  | .none => 0

/-- Step 8's `t2` (42_compensation.md R171 to R173). -/
def t2Of (b : Branch) (c6 temp : Int) : Int := floorShift (t2Prod b c6 temp) 20

/-- The product of step 8's `p2`, before its shift (42_compensation.md R171 to R173). -/
def p2Prod (b : Branch) (t2 p : Int) : Int :=
  match b with
  | .low => 3 * t2 * (p - 3500)
  | .high => t2 * (p - 10000)
  | .none => 0

/-- Step 8's `p2` (42_compensation.md R171 to R173). -/
def p2Of (b : Branch) (t2 p : Int) : Int :=
  match b with
  | .low => floorShift (p2Prod .low t2 p) 14
  | .high => floorShift (p2Prod .high t2 p) 13
  | .none => 0

/-! ### The whole chain, in the order of 42_compensation.md R176 -/

/-- Steps 1 to 7. -/
structure FirstOrder where
  ut1 : Int
  dt : Int
  temp : Int
  off : Int
  sens : Int
  x : Int
  p : Int
  deriving DecidableEq, Repr

def firstOrder (i : CompIn) : FirstOrder :=
  let ut1 := ut1Of i.c5
  let dt := dtOf i.d2 ut1
  let temp := tempOf dt i.c6
  let off := offOf i.c2 i.c4 dt
  let sens := sensOf i.c1 i.c3 dt
  let x := xOf sens i.d1 off
  { ut1 := ut1, dt := dt, temp := temp, off := off, sens := sens, x := x, p := pOf x }

/-- Steps 8 and 9. -/
structure SecondOrder where
  t2 : Int
  p2 : Int
  tempFin : Int
  pFin : Int
  deriving DecidableEq, Repr

/-- The second-order correction of a branch, from the first-order `TEMP` and `P` (42_compensation.md R171 to R174). -/
def secondOrder (b : Branch) (c6 : Int) (f : FirstOrder) : SecondOrder :=
  let t2 := t2Of b c6 f.temp
  let p2 := p2Of b t2 f.p
  { t2 := t2, p2 := p2, tempFin := f.temp - t2, pFin := f.p - p2 }

/-- The values of 42_compensation.md R181's table for these inputs, products before their shifts included: what must
fit the accumulator (log 13). -/
def chainValues (b : Branch) (i : CompIn) : List Int :=
  let f := firstOrder i
  let g := secondOrder b i.c6 f
  [f.ut1, f.dt, f.dt * (i.c6 + 50), f.temp, (i.c4 - 512) * f.dt, f.off, i.c3 * f.dt, f.sens,
    f.sens * (i.d1 - 7168), f.x, f.x * 10, f.p, t2Prod b i.c6 f.temp, g.t2, p2Prod b g.t2 f.p, g.p2, g.tempFin,
    g.pFin]

/-- Does a value leave the signed range of a `w`-bit accumulator (42_compensation.md R182)? -/
def overflows (w : Nat) (b : Branch) (i : CompIn) : Bool := (chainValues b i).any fun v => !inRange w v

/-- The pipeline registers after COMPUTE. -/
def pipeOf (br : BitVec 2) (f : FirstOrder) (g : SecondOrder) : Pipe :=
  { ut1 := some (BitVec.ofInt 64 f.ut1), dt := some (BitVec.ofInt 64 f.dt), temp := some (BitVec.ofInt 64 f.temp),
    off := some (BitVec.ofInt 64 f.off), sens := some (BitVec.ofInt 64 f.sens), x := some (BitVec.ofInt 64 f.x),
    p := some (BitVec.ofInt 64 f.p), br := some br, t2 := some (BitVec.ofInt 64 g.t2),
    p2 := some (BitVec.ofInt 64 g.p2), tempFin := some (BitVec.ofInt 64 g.tempFin),
    pFin := some (BitVec.ofInt 64 g.pFin) }

/-- COMPUTE (42_compensation.md R160): step 8 writes `BR` and then reads it (R170 to R173). -/
def execCompute (s : State) : Answer :=
  match s.coefs.vals, s.raw.meas with
  | some c, some m =>
    let i := compIn c m
    let f := firstOrder i
    let br := (branchOf f.temp).code
    match branchOfCode br with
    | some b =>
      if overflows Config.accWidth b i then .fault .overflow
      else .next ((s.elapse.setPipe (pipeOf br f (secondOrder b i.c6 f))).setSeq 8)
    | Option.none => .refused .badBranchCode
  | _, _ => .fault .readUnwritten

end Sys2Proof.Machine
end

