-- ==== Sys2Proof/Machine/Decoder.lean ====
section
/-! DEFINITION. The coefficient decoder (41_decoder.md). -/

namespace Sys2Proof.Machine

/-- `c1 = word1 >> 1` (41_decoder.md R141). -/
def c1Of (w1 : Word16) : BitVec 15 := (w1 >>> 1).setWidth 15

/-- `c2 = ((word3 & 0x3F) << 6) | (word4 & 0x3F)` (41_decoder.md R142). -/
def c2Of (w3 w4 : Word16) : BitVec 12 := (((w3 &&& 0x3F) <<< 6) ||| (w4 &&& 0x3F)).setWidth 12

/-- `c3 = word4 >> 6` (41_decoder.md R143). -/
def c3Of (w4 : Word16) : BitVec 10 := (w4 >>> 6).setWidth 10

/-- `c4 = word3 >> 6` (41_decoder.md R144). -/
def c4Of (w3 : Word16) : BitVec 10 := (w3 >>> 6).setWidth 10

/-- `c5 = ((word1 & 0x01) << 10) | (word2 >> 6)` (41_decoder.md R145). -/
def c5Of (w1 w2 : Word16) : BitVec 11 := (((w1 &&& 0x01) <<< 10) ||| (w2 >>> 6)).setWidth 11

/-- `c6 = word2 & 0x3F` (41_decoder.md R146). -/
def c6Of (w2 : Word16) : BitVec 6 := (w2 &&& 0x3F).setWidth 6

/-- The six coefficients of four calibration words (41_decoder.md R140). -/
def decodeWords (w : WordVals) : CoefVals :=
  { c1 := c1Of w.w1, c2 := c2Of w.w3 w.w4, c3 := c3Of w.w4, c4 := c4Of w.w3, c5 := c5Of w.w1 w.w2,
    c6 := c6Of w.w2 }

/-- DECODE (41_decoder.md R140). -/
def execDecode (s : State) : Answer :=
  match s.raw.words with
  | some w => .next ((s.elapse.setCoefs (decodeWords w).regs).setSeq 5)
  | none => .fault .readUnwritten

end Sys2Proof.Machine
end

