-- ==== Sys2Proof/Machine/Sequencer.lean ====
section
/-! DEFINITION. The sequencer's own micro-operations (43_sequencer.md §2). -/

namespace Sys2Proof.Machine

/-- REPORT (43_sequencer.md R215). -/
def execReport (s : State) : Answer :=
  match s.raw.words, s.raw.meas, s.pipe.fin with
  | some w, some m, some f =>
    .next (((s.elapse.setOutputs { tempOut := some (toOut f.temp), pOut := some (toOut f.pres), valid := true }).emit
      (reportOf w m f)).setSeq 9)
  | _, _, _ => .fault .readUnwritten

/-- WAIT (43_sequencer.md R216). -/
def execWait (s : State) : Answer := waitPhase tCycleMs s

end Sys2Proof.Machine
end

