-- ==== Sys2Proof/Machine/Transport.lean ====
section
/-! DEFINITION. The transport unit's meanings, one per wire constant (40_transport.md §2): each is one clock of the
instruction at phase `PH`. -/

namespace Sys2Proof.Machine

/-- RESET24 (40_transport.md R110): phases 0 to 2 of a transaction. -/
def execReset24 (s : State) : Answer := resetPhase s

/-- RDCAL1 (40_transport.md R111). -/
def execRdcal1 (s : State) : Answer := transaction cmdRdcal1 tCalMs .w1 s

/-- RDCAL2 (40_transport.md R112). -/
def execRdcal2 (s : State) : Answer := transaction cmdRdcal2 tCalMs .w2 s

/-- RDCAL3 (40_transport.md R113). -/
def execRdcal3 (s : State) : Answer := transaction cmdRdcal3 tCalMs .w3 s

/-- RDCAL4 (40_transport.md R114). -/
def execRdcal4 (s : State) : Answer := transaction cmdRdcal4 tCalMs .w4 s

/-- CONVD1 (40_transport.md R115). -/
def execConvd1 (s : State) : Answer := transaction cmdConvd1 tConvMs .d1 s

/-- CONVD2 (40_transport.md R116). -/
def execConvd2 (s : State) : Answer := transaction cmdConvd2 tConvMs .d2 s

end Sys2Proof.Machine
end

