-- ==== Sys2Proof/Machine/Dispatch.lean ====
section
/-! DEFINITION. One arm per instruction: one clock of it. -/

namespace Sys2Proof.Machine

def exec (i : Instr) (s : State) : Host.Outcome State Fault Refusal :=
  match i with
  | .reset24 => Sys2Proof.Machine.execReset24 s
  | .rdcal1 => Sys2Proof.Machine.execRdcal1 s
  | .rdcal2 => Sys2Proof.Machine.execRdcal2 s
  | .rdcal3 => Sys2Proof.Machine.execRdcal3 s
  | .rdcal4 => Sys2Proof.Machine.execRdcal4 s
  | .convd1 => Sys2Proof.Machine.execConvd1 s
  | .convd2 => Sys2Proof.Machine.execConvd2 s
  | .decode => Sys2Proof.Machine.execDecode s
  | .compute => Sys2Proof.Machine.execCompute s
  | .report => Sys2Proof.Machine.execReport s
  | .wait => Sys2Proof.Machine.execWait s

end Sys2Proof.Machine
end

