-- ==== Sys2Proof/Machine/Step.lean ====
section
/-! DEFINITION. One clock of the block, and how the next clock is made to run a given instruction. -/

namespace Sys2Proof.Machine

/-- One clock: block reset wins over everything (60_exceptions.md R243); otherwise the enabled phase of the
instruction that `SEQ` and `PH` select, or a hold (43_sequencer.md R211). -/
def step (s : State) : Host.Outcome State Fault Refusal :=
  if s.input.rst then .next (blockReset s)
  else
    match fetch s with
    | .error f => .fault f
    | .ok i => exec i s

/-- `s` with the sequencer at the place where the constant store holds the instruction that the table's word encodes,
and an uneventful clock ahead in which the link answers, so that the very next step runs it (log 10). A word that
encodes no instruction stands nowhere in the store. -/
def State.withFetchWord (s : State) (nbits w : Nat) : State :=
  match decodeTableWord nbits w with
  | some i => { s with seq := (storePlace i).1, ph := (storePlace i).2, inputs := quietInput :: s.inputs }
  | none => s

end Sys2Proof.Machine
end

