-- ==== Sys2Proof/Safety.lean ====
section
/-! DEFINITION. What counts as a safe run, in the terms the claims use: the legal shapes of a state, what has been
written when it is read, what stands on the wire, what a report must say, and the premises of 40_transport.md R121. -/

namespace Sys2Proof.Safety

open Sys2Proof.Machine

/-! ### The table of 30_encoding.md R81 -/

/-- A wire command of R81: its instruction, its value, its wait and its destination register. -/
structure CommandRow where
  instr : Instr
  cmd : Word16
  delay : Millis
  dest : Dest
  deriving DecidableEq, Repr

/-- The six commands, as R81 lists them. -/
def commandRows : List CommandRow :=
  [⟨.rdcal1, 0x1D50, 0, .w1⟩, ⟨.rdcal2, 0x1D60, 0, .w2⟩, ⟨.rdcal3, 0x1D90, 0, .w3⟩, ⟨.rdcal4, 0x1DA0, 0, .w4⟩,
    ⟨.convd1, 0x0F40, 35, .d1⟩, ⟨.convd2, 0x0F20, 35, .d2⟩]

/-! ### Control -/

/-- The values of `SEQ` that are transactions (43_sequencer.md R210, R211). -/
def xferStep (q : BitVec 4) : Bool := q = 0 || q = 1 || q = 2 || q = 3 || q = 5 || q = 6

/-- The shape of the control registers in every state a run reaches (10_state.md R25, R33 to R36). -/
structure ControlLegal (s : State) : Prop where
  /-- Values 10 to 15 of `SEQ` are never written (R33). -/
  seqLegal : s.seq.toNat ≤ 9
  /-- In DECODE, COMPUTE and REPORT `PH` is 0 (R34). -/
  phMicro : s.seq = 4 ∨ s.seq = 7 ∨ s.seq = 8 → s.ph = 0
  /-- In WAIT `PH` is 0 or 1 (R34). -/
  phWait : s.seq = 9 → s.ph.toNat ≤ 1
  /-- Phase 5 is skipped where the delay is 0 (40_transport.md R103). -/
  phDelay : s.ph = 5 → s.seq = 5 ∨ s.seq = 6
  /-- From the end of phase 0 to phase 6 the link is in `MODE_CMD` (40_transport.md R109). -/
  modeSend : xferStep s.seq = true → 1 ≤ s.ph.toNat → s.ph.toNat ≤ 6 → s.linkMode = .cmd
  /-- Between the response's two bytes the link is in `MODE_RESP` (40_transport.md R104). -/
  modeRead : xferStep s.seq = true → s.ph = 7 → s.linkMode = .resp
  /-- After a transaction the link stays in `MODE_RESP` until the next one begins (40_transport.md R105). -/
  modeIdle : s.seq ≠ 0 → s.ph = 0 ∨ s.seq = 9 → s.linkMode = .resp
  /-- The conversion wait runs from 35 down (40_transport.md R115). -/
  timerConv : xferStep s.seq = true → s.ph = 5 → s.timer.toNat ≤ 35
  /-- The inter-cycle wait runs from 5000 down (43_sequencer.md R216). -/
  timerWait : s.seq = 9 → s.ph = 1 → s.timer.toNat ≤ 5000
  /-- Outside the two waits `TIMER` is 0 (60_exceptions.md R249). -/
  timerIdle : ¬(xferStep s.seq = true ∧ s.ph = 5) → ¬(s.seq = 9 ∧ s.ph = 1) → s.timer = 0
  /-- `BR = 0b11` is never written (R25). -/
  brLegal : s.pipe.br ≠ some 0b11

/-- A clock without reset completes the step `SEQ` (43_sequencer.md R212): an answered phase 7 of a transaction
(40_transport.md R105), any clock of DECODE, COMPUTE or REPORT, and phase 1 of WAIT with `TIMER = 0` (R216). -/
def StepCompletes (s : State) : Prop :=
  (xferStep s.seq = true ∧ s.ph = 7 ∧ s.input.answer.isSome) ∨ (s.seq = 4 ∨ s.seq = 7 ∨ s.seq = 8) ∨
    (s.seq = 9 ∧ s.ph = 1 ∧ s.timer = 0)

/-! ### Data: written before read (10_state.md R28) -/

/-- Every pipeline register holds a value. -/
structure PipeWritten (q : Pipe) : Prop where
  ut1 : q.ut1.isSome
  dt : q.dt.isSome
  temp : q.temp.isSome
  off : q.off.isSome
  sens : q.sens.isSome
  x : q.x.isSome
  p : q.p.isSome
  br : q.br.isSome
  t2 : q.t2.isSome
  p2 : q.p2.isSome
  tempFin : q.tempFin.isSome
  pFin : q.pFin.isSome

/-- Each data register holds a value from the step of the cycle that writes it on (10_state.md R28). It asks nothing
of a state at the start of a cycle. -/
structure WrittenBeforeRead (s : State) : Prop where
  w1 : 1 ≤ s.seq.toNat → s.raw.w1.isSome
  w2 : 2 ≤ s.seq.toNat → s.raw.w2.isSome
  w3 : 3 ≤ s.seq.toNat → s.raw.w3.isSome
  w4 : 4 ≤ s.seq.toNat → s.raw.w4.isSome
  coefs : 5 ≤ s.seq.toNat → s.coefs.vals.isSome
  d1 : 6 ≤ s.seq.toNat → s.raw.d1.isSome
  d2 : 7 ≤ s.seq.toNat → s.raw.d2.isSome
  pipe : 8 ≤ s.seq.toNat → PipeWritten s.pipe
  rxh : xferStep s.seq = true → s.ph = 7 → s.rxh.isSome
  outs : s.outs.valid = true → s.outs.tempOut.isSome ∧ s.outs.pOut.isSome

/-- The state of 70_reset_and_hazards.md R270 read literally: every register it calls UNSPECIFIED holds no value. The
machine starts from `State.reset`, which names values for them (log 1); this state serves to say that those values
never show. -/
def unwritten : State :=
  { State.reset with
    raw := { w1 := none, w2 := none, w3 := none, w4 := none, d1 := none, d2 := none }
    coefs := { c1 := none, c2 := none, c3 := none, c4 := none, c5 := none, c6 := none }
    pipe :=
      { ut1 := none, dt := none, temp := none, off := none, sens := none, x := none, p := none, br := none,
        t2 := none, p2 := none, tempFin := none, pFin := none }
    outs := { tempOut := none, pOut := none, valid := false }
    rxh := none }

/-- Two states that differ at most in registers that this cycle has not written yet (10_state.md R28), and in
`TEMP_OUT` and `P_OUT` while `VALID = 0` (R26). -/
structure SameVisible (s t : State) : Prop where
  seq : s.seq = t.seq
  ph : s.ph = t.ph
  linkMode : s.linkMode = t.linkMode
  timer : s.timer = t.timer
  valid : s.outs.valid = t.outs.valid
  events : s.events = t.events
  inputs : s.inputs = t.inputs
  clock : s.clock = t.clock
  w1 : 1 ≤ s.seq.toNat → s.raw.w1 = t.raw.w1
  w2 : 2 ≤ s.seq.toNat → s.raw.w2 = t.raw.w2
  w3 : 3 ≤ s.seq.toNat → s.raw.w3 = t.raw.w3
  w4 : 4 ≤ s.seq.toNat → s.raw.w4 = t.raw.w4
  coefs : 5 ≤ s.seq.toNat → s.coefs = t.coefs
  d1 : 6 ≤ s.seq.toNat → s.raw.d1 = t.raw.d1
  d2 : 7 ≤ s.seq.toNat → s.raw.d2 = t.raw.d2
  pipe : 8 ≤ s.seq.toNat → s.pipe = t.pipe
  rxh : xferStep s.seq = true → s.ph = 7 → s.rxh = t.rxh
  outs : s.outs.valid = true → s.outs = t.outs

/-! ### The wire (30_encoding.md R86) -/

/-- Mode and sent byte of the seven exchanges of a transaction, in order. -/
def sendsOf (cmd : Word16) : List (LinkMode × Byte) :=
  [(.cmd, 0x15), (.cmd, 0x55), (.cmd, 0x40), (.cmd, hiByte cmd), (.cmd, loByte cmd), (.resp, 0x00), (.resp, 0x00)]

/-- How many of them are done when phase `PH` is next. -/
def exchangesDone (ph : BitVec 3) : Nat := if ph.toNat ≤ 5 then ph.toNat else ph.toNat - 1

/-- Mode and sent byte of an event, if it is an exchange. -/
def sent : Event → Option (LinkMode × Byte)
  | .exchange mode tx _ => some (mode, tx)
  | .report _ => none

/-- Inside a transaction the newest events are exactly the exchanges made so far, in order, none of another kind
between them (40_transport.md R107, 20_memory.md R67), and in phase 7 `RXH` is the byte the newest one received. -/
structure OnTheWire (s : State) : Prop where
  sends : ∀ cmd, currentCmd s = some cmd →
    (s.events.take (exchangesDone s.ph)).map sent = (((sendsOf cmd).take (exchangesDone s.ph)).map some).reverse
  kept : (currentCmd s).isSome → s.ph = 7 →
    ∃ rx es, s.events = .exchange .resp 0x00 rx :: es ∧ s.rxh = some rx

/-- The bits a list of sent bytes puts on the wire (20_memory.md R62, 40_transport.md R117). -/
def wireBits (bs : List Byte) : List Bool := bs.flatMap msbFirst

/-! ### Results -/

/-- Steps 1 to 9 on given coefficients and measurements (42_compensation.md R163 to R174). -/
def compensate (c : CoefVals) (m : MeasVals) : SecondOrder :=
  let i := compIn c m
  let f := firstOrder i
  secondOrder (branchOf f.temp) i.c6 f

/-- A report whose results are those of its own six words (43_sequencer.md R219). -/
def ExactReport (r : Report) : Prop :=
  let o := compensate (decodeWords ⟨r.w1, r.w2, r.w3, r.w4⟩) ⟨r.d1, r.d2⟩
  r.temp.toInt = o.tempFin ∧ r.pres.toInt = o.pFin

/-- The data of a cycle, from the raw words to the report (43_sequencer.md R219). -/
structure DataFlow (s : State) : Prop where
  coefs : 5 ≤ s.seq.toNat → ∃ w, s.raw.words = some w ∧ s.coefs = (decodeWords w).regs
  pipe : 8 ≤ s.seq.toNat → ∃ w m t p, s.raw.words = some w ∧ s.raw.meas = some m ∧
    s.pipe.tempFin = some t ∧ s.pipe.pFin = some p ∧
    t.toInt = (compensate (decodeWords w) m).tempFin ∧ p.toInt = (compensate (decodeWords w) m).pFin
  reports : ∀ r, Event.report r ∈ s.events → ExactReport r

/-- The pipeline registers' values as integers, and `BR`. -/
structure PipeInts where
  ut1 : Int
  dt : Int
  temp : Int
  off : Int
  sens : Int
  x : Int
  p : Int
  br : BitVec 2
  t2 : Int
  p2 : Int
  tempFin : Int
  pFin : Int
  deriving DecidableEq, Repr

/-- The registers of `q` hold exactly the integers `v`. -/
structure HoldsInts (q : Pipe) (v : PipeInts) : Prop where
  ut1 : q.ut1.map BitVec.toInt = some v.ut1
  dt : q.dt.map BitVec.toInt = some v.dt
  temp : q.temp.map BitVec.toInt = some v.temp
  off : q.off.map BitVec.toInt = some v.off
  sens : q.sens.map BitVec.toInt = some v.sens
  x : q.x.map BitVec.toInt = some v.x
  p : q.p.map BitVec.toInt = some v.p
  br : q.br = some v.br
  t2 : q.t2.map BitVec.toInt = some v.t2
  p2 : q.p2.map BitVec.toInt = some v.p2
  tempFin : q.tempFin.map BitVec.toInt = some v.tempFin
  pFin : q.pFin.map BitVec.toInt = some v.pFin

/-- The decoder's inverse (41_decoder.md R149). The block does not implement it. -/
def repack (c : CoefVals) : WordVals where
  w1 := (c.c1.setWidth 16 <<< 1) ||| (c.c5.setWidth 16 >>> 10)
  w2 := ((c.c5.setWidth 16 &&& 0x3FF) <<< 6) ||| c.c6.setWidth 16
  w3 := (c.c4.setWidth 16 <<< 6) ||| (c.c2.setWidth 16 >>> 6)
  w4 := (c.c3.setWidth 16 <<< 6) ||| (c.c2.setWidth 16 &&& 0x3F)

/-! ### The environment -/

/-- No clock of these inputs asserts `rst`. -/
def noReset (is : List Input) : Bool := is.all fun i => !i.rst

/-- The ticks of these inputs. -/
def tickCount (is : List Input) : Nat := (is.filter fun i => i.tick).length

/-- Clocks without reset in which the link completes an exchange: the bytes received, and whether a tick comes. -/
def answers (rx : List (Byte × Bool)) : List Input :=
  rx.map fun b => { rst := false, tick := b.2, answer := some b.1 }

/-- The command and the response word of every complete transaction of an event history, oldest event first. -/
def transactions : List Event → List (Word16 × Word16)
  | .exchange .cmd a _ :: es =>
    match es with
    | .exchange .cmd b _ :: .exchange .cmd c _ :: .exchange .cmd hi _ :: .exchange .cmd lo _ ::
        .exchange .resp _ r1 :: .exchange .resp _ r2 :: _ =>
      if a = 0x15 ∧ b = 0x55 ∧ c = 0x40 then (wordOfBytes hi lo, wordOfBytes r1 r2) :: transactions es
      else transactions es
    | _ => transactions es
  | _ :: es => transactions es
  | [] => []

/-- The premise `CalImmutable` of 40_transport.md R121: a calibration command has the same response in every cycle. A
claim may take it; no rule of the block does. -/
def CalImmutable (events : List Event) : Prop :=
  ∀ cmd ∈ [cmdRdcal1, cmdRdcal2, cmdRdcal3, cmdRdcal4], ∀ a b,
    (cmd, a) ∈ transactions events.reverse → (cmd, b) ∈ transactions events.reverse → a = b

/-- The premise `Connected` of 40_transport.md R121, as far as the link shows it: a sensor with the calibration words
`w` answers each calibration command with its word. Its conversion results may be any words. -/
def Connected (w : WordVals) (events : List Event) : Prop :=
  ∀ cmd a, (cmd, a) ∈ transactions events.reverse →
    (cmd = cmdRdcal1 → a = w.w1) ∧ (cmd = cmdRdcal2 → a = w.w2) ∧ (cmd = cmdRdcal3 → a = w.w3) ∧
    (cmd = cmdRdcal4 → a = w.w4)

/-- The premise `Disconnected` of 40_transport.md R121: nothing is assumed of the response words. -/
def Disconnected (_events : List Event) : Prop := True

/-- The two electrical modes differ (92_eei_decisions.md D8). A premise: no rule of the block rests on it. -/
def ModesDiffer : Prop := Config.modeCmd ≠ Config.modeResp

end Sys2Proof.Safety
end

