-- ==== Sys2Proof/Certificates/Slice0/Obligations.lean ====
section
/-! DEFINITION. The statements for the provers. Each docstring names the rules of spec/ it rests on. -/

open Sys2Proof Sys2Proof.Machine Sys2Proof.Safety

/-! ### Encoding (30_encoding.md) -/

/-- R81, R88: the words of the table, written out as bytes. -/
def Obligations.TableWordsDecode : Prop :=
  decodeBytes [0x15, 0x55, 0x40] = .ok .reset24 ∧ decodeBytes [0x1D, 0x50] = .ok .rdcal1 ∧
  decodeBytes [0x1D, 0x60] = .ok .rdcal2 ∧ decodeBytes [0x1D, 0x90] = .ok .rdcal3 ∧
  decodeBytes [0x1D, 0xA0] = .ok .rdcal4 ∧ decodeBytes [0x0F, 0x40] = .ok .convd1 ∧
  decodeBytes [0x0F, 0x20] = .ok .convd2 ∧ decodeBytes [4] = .ok .decode ∧ decodeBytes [7] = .ok .compute ∧
  decodeBytes [8] = .ok .report ∧ decodeBytes [9] = .ok .wait

/-- R81, R83, R85, R88: on any bytes the decoder gives an instruction exactly where the bytes are that instruction's
encoding: every encoding decodes to its instruction, and nothing else decodes. -/
def Obligations.DecodeExactlyInvertsEncode : Prop :=
  ∀ (bs : List Byte) (i : Instr), decodeBytes bs = .ok i ↔ bs = encodeBytes i

/-- R83: a 16-bit value is the command it equals in all 16 bits, and no command otherwise; a 24-bit value is the reset
pattern only if it equals it in all 24 bits; what the block runs depends on `SEQ` and `PH` only, never on a byte it
received; and the commands it issues are those of R81. -/
def Obligations.CommandsCompareAllBits : Prop :=
  (∀ (c : Word16) (i : Instr), decode (.f16c c) = .ok i ↔ ∃ row ∈ commandRows, row.cmd = c ∧ row.instr = i) ∧
  (∀ (p : BitVec 24) (i : Instr), decode (.f24 p) = .ok i ↔ p = 0x155540 ∧ i = .reset24) ∧
  (∀ s t : State, s.seq = t.seq → s.ph = t.ph → fetch s = fetch t) ∧
  (∀ (s : State) (cmd : Word16), currentCmd s = some cmd → ∃ row ∈ commandRows, row.cmd = cmd)

/-- R85, 93 U4: a transaction asked to send a value that is no command stops with `REFUSED_CMD` in every state,
and so sends nothing. -/
def Obligations.OtherValuesAreRefused : Prop :=
  ∀ (cmd : Word16) (delay : Millis) (dest : Dest) (s : State),
    (∀ row ∈ commandRows, row.cmd ≠ cmd) → transaction cmd delay dest s = .fault .refusedCmd

/-- R62, R63, R64: the seven exchanges that a completed transaction leaves as the newest events are five in `MODE_CMD`,
whose bytes are 40 bits on the wire, the 24 of the reset pattern, bit 23 first, then the 16 of the command, bit 15 first,
and after them two in `MODE_RESP`, whose bytes are 16 zero bits. (The inference of 40_transport.md R117, "The bit stream
of one transaction".) -/
def Obligations.WireBitStream : Prop :=
  ∀ (s t : State) (cmd : Word16) (delay : Millis) (dest : Dest) (lo : Byte),
    OnTheWire s → s.input.rst = false → microprogram s.seq = some (.xfer cmd delay dest) → s.ph = 7 →
    s.input.answer = some lo → step s = .next t →
    ∃ out fill : List Byte, out.length = 5 ∧ fill.length = 2 ∧
      (t.events.take 7).reverse.map sent =
        out.map (fun b => some (.cmd, b)) ++ fill.map (fun b => some (.resp, b)) ∧
      wireBits out = (List.range 40).map (fun k => ((0x155540 : BitVec 24) ++ cmd).getLsbD (39 - k)) ∧
      wireBits fill = List.replicate 16 false

/-! ### Fetch and step (43_sequencer.md) -/

/-- R210, R211, R86: what a clock runs, by `SEQ` and `PH`; `SEQ` 10 to 15 raise `BAD_SEQ`. -/
def Obligations.MicroprogramSelects : Prop :=
  ∀ s : State,
    (∀ row ∈ [((0 : BitVec 4), Instr.rdcal1), (1, .rdcal2), (2, .rdcal3), (3, .rdcal4), (5, .convd1), (6, .convd2)],
      s.seq = row.1 → fetch s = .ok (if s.ph.toNat < 3 then .reset24 else row.2)) ∧
    (∀ row ∈ [((4 : BitVec 4), Instr.decode), (7, .compute), (8, .report), (9, .wait)],
      s.seq = row.1 → fetch s = .ok row.2) ∧
    (10 ≤ s.seq.toNat → s.input.rst = false → step s = .fault .badSeq)

/-- R211: where the fetched words decode to an instruction and `rst` is not asserted, the clock is that
instruction's. -/
def Obligations.StepRunsDecodedInstruction : Prop :=
  ∀ (s : State) (it : Item) (i : Instr),
    s.input.rst = false → fetchItem s = some it → decode it = .ok i → step s = exec i s

/-- R247 (and log 3): what `elapse`, the part common to every clock without reset, does. A tick decrements `TIMER`, and
is lost at 0; the clock's input is used up; nothing else changes. -/
def Obligations.ClockElapses : Prop :=
  ∀ s : State,
    s.elapse = { s with
      timer := if s.input.tick = true ∧ s.timer ≠ 0 then s.timer - 1 else s.timer
      inputs := s.inputs.tail
      clock := s.clock + 1 }

/-! ### What each instruction does where it runs -/

/-- R102, R110, R63: RESET24 completes each of its three phases when the link answers: 15, 55, 40 in `MODE_CMD`, with
`LINK_MODE` written in the first. -/
def Obligations.Reset24Completes : Prop :=
  ∀ (s : State) (rx : Byte), s.input.answer = some rx →
    (s.ph = 0 → exec .reset24 s = .next { s.elapse with
      linkMode := .cmd, ph := 1, events := .exchange .cmd 0x15 rx :: s.events }) ∧
    (s.ph = 1 → exec .reset24 s = .next { s.elapse with ph := 2, events := .exchange .cmd 0x55 rx :: s.events }) ∧
    (s.ph = 2 → exec .reset24 s = .next { s.elapse with ph := 3, events := .exchange .cmd 0x40 rx :: s.events })

/-- R101, R103, R111 to R116: in phases 0 to 2 a command's transaction is RESET24; in phases 3 and 4 it sends its two
bytes, high byte first, in `MODE_CMD`; after phase 4 it loads its delay and waits, or skips the wait where the delay
is 0. -/
def Obligations.TransactionSendsCommand : Prop :=
  ∀ row ∈ commandRows, ∀ (s : State) (rx : Byte), s.input.answer = some rx →
    (s.ph.toNat < 3 → exec row.instr s = exec .reset24 s) ∧
    (s.ph = 3 → exec row.instr s = .next { s.elapse with
      ph := 4, events := .exchange .cmd (row.cmd.extractLsb' 8 8) rx :: s.events }) ∧
    (s.ph = 4 → row.delay = 0 → exec row.instr s = .next { s.elapse with
      ph := 6, events := .exchange .cmd (row.cmd.extractLsb' 0 8) rx :: s.events }) ∧
    (s.ph = 4 → row.delay ≠ 0 → exec row.instr s = .next { s.elapse with
      ph := 5, timer := row.delay, events := .exchange .cmd (row.cmd.extractLsb' 0 8) rx :: s.events })

/-- R101, R103: phase 5 of a command's transaction holds while `TIMER` is not 0 and ends when it is, whatever the link
does. -/
def Obligations.ConversionPhaseWaits : Prop :=
  ∀ row ∈ commandRows, ∀ s : State, s.ph = 5 →
    (s.timer = 0 → exec row.instr s = .next { s.elapse with ph := 6 }) ∧
    (s.timer ≠ 0 → exec row.instr s = .next s.elapse)

/-- R104, R105, R106, R111 to R116: phase 6 switches to `MODE_RESP`, sends 00 and keeps the byte in `RXH`; phase 7 sends
00 and writes the destination with `RXH * 256 + lo`, unchecked, `PH <- 0`, `SEQ <- s + 1`. -/
def Obligations.TransactionReadsResponse : Prop :=
  ∀ row ∈ commandRows, ∀ (s : State) (rx : Byte), s.input.answer = some rx →
    (s.ph = 6 → exec row.instr s = .next { s.elapse with
      linkMode := .resp, rxh := some rx, ph := 7, events := .exchange .resp 0x00 rx :: s.events }) ∧
    (∀ hi, s.ph = 7 → s.rxh = some hi → ∃ v : Word16, v.toNat = hi.toNat * 256 + rx.toNat ∧
      exec row.instr s = .next { s.elapse with
        raw := s.raw.write row.dest v, ph := 0, seq := s.seq + 1,
        events := .exchange .resp 0x00 rx :: s.events })

/-- R100, R211, R122: an exchange that the link collaborator has not completed holds the block in its phase. -/
def Obligations.ExchangeHoldsUntilAnswered : Prop :=
  ∀ s : State, s.input.answer = none →
    exec .reset24 s = .next s.elapse ∧
    ∀ row ∈ commandRows, s.ph ≠ 5 → exec row.instr s = .next s.elapse

/-- R140, R150: DECODE completes on every four words: it writes `C1` to `C6` and `SEQ <- 5`. -/
def Obligations.DecodeCompletes : Prop :=
  ∀ (s : State) (w : WordVals), s.raw.words = some w →
    exec .decode s = .next { s.elapse with coefs := (decodeWords w).regs, seq := 5 }

/-- R160, R181: COMPUTE completes on every coefficients and measurements: it writes the twelve pipeline registers and
`SEQ <- 8`. (What it writes: FirstOrderRegisters, BranchSelection, SecondOrderRegisters.) -/
def Obligations.ComputeCompletes : Prop :=
  ∀ (s : State) (c : CoefVals) (m : MeasVals), s.coefs.vals = some c → s.raw.meas = some m →
    ∃ q : Pipe, PipeWritten q ∧ exec .compute s = .next { s.elapse with pipe := q, seq := 8 }

/-- R215, R175: REPORT completes whatever the link and the reporting collaborator do: results that fit 32 bits reach
`TEMP_OUT` and `P_OUT` as the same integers, `VALID <- 1`, the eight fields are reported, `SEQ <- 9`. -/
def Obligations.ReportCompletes : Prop :=
  ∀ (s : State) (w : WordVals) (m : MeasVals) (f : FinVals),
    s.raw.words = some w → s.raw.meas = some m → s.pipe.fin = some f →
    ∃ a b : OutWord,
      (-(2 ^ 31) ≤ f.temp.toInt → f.temp.toInt < 2 ^ 31 → a.toInt = f.temp.toInt) ∧
      (-(2 ^ 31) ≤ f.pres.toInt → f.pres.toInt < 2 ^ 31 → b.toInt = f.pres.toInt) ∧
      exec .report s = .next { s.elapse with
        outs := { tempOut := some a, pOut := some b, valid := true }
        events := .report ⟨w.w1, w.w2, w.w3, w.w4, m.d1, m.d2, f.temp, f.pres⟩ :: s.events
        seq := 9 }

/-- R216: WAIT loads `TIMER` with 5000 in phase 0, holds in phase 1 while it is not 0, and ends the cycle when it is. -/
def Obligations.WaitCompletes : Prop :=
  ∀ s : State,
    (s.ph = 0 → exec .wait s = .next { s.elapse with timer := 5000, ph := 1 }) ∧
    (s.ph = 1 → s.timer = 0 → exec .wait s = .next { s.elapse with ph := 0, seq := 0 }) ∧
    (s.ph = 1 → s.timer ≠ 0 → exec .wait s = .next s.elapse)

/-- R20, R241: a step that reads a register holding no value stops with `READ_UNWRITTEN`, with nothing written. -/
def Obligations.UnwrittenReadsStop : Prop :=
  ∀ s : State,
    (s.raw.w1 = none ∨ s.raw.w2 = none ∨ s.raw.w3 = none ∨ s.raw.w4 = none →
      exec .decode s = .fault .readUnwritten ∧ exec .report s = .fault .readUnwritten) ∧
    (s.raw.d1 = none ∨ s.raw.d2 = none →
      exec .compute s = .fault .readUnwritten ∧ exec .report s = .fault .readUnwritten) ∧
    (s.coefs.vals = none → exec .compute s = .fault .readUnwritten) ∧
    (s.pipe.tempFin = none ∨ s.pipe.pFin = none → exec .report s = .fault .readUnwritten) ∧
    (∀ row ∈ commandRows, ∀ rx, s.input.answer = some rx → s.ph = 7 → s.rxh = none →
      exec row.instr s = .fault .readUnwritten)

/-! ### The decoder (41_decoder.md) -/

/-- R141, R142, R143, R145 (and the formulas of R144 and R146): the fields DECODE writes, as bit fields and as numbers,
with the rules' corner cases and examples; no flag is written. -/
def Obligations.DecoderFormulas : Prop :=
  (∀ (s : State) (w : WordVals), s.raw.words = some w →
    ∃ (t : State) (c : CoefVals), exec .decode s = .next t ∧ t.coefs = c.regs ∧
      c.c1 = w.w1.extractLsb' 1 15 ∧ c.c1.toNat = w.w1.toNat / 2 ∧
      c.c2 = w.w3.extractLsb' 0 6 ++ w.w4.extractLsb' 0 6 ∧
      c.c2.toNat = w.w3.toNat % 64 * 64 + w.w4.toNat % 64 ∧
      c.c3 = w.w4.extractLsb' 6 10 ∧ c.c3.toNat = w.w4.toNat / 64 ∧
      c.c4 = w.w3.extractLsb' 6 10 ∧ c.c4.toNat = w.w3.toNat / 64 ∧
      c.c5 = w.w1.extractLsb' 0 1 ++ w.w2.extractLsb' 6 10 ∧
      c.c5.toNat = w.w1.toNat % 2 * 1024 + w.w2.toNat / 64 ∧
      c.c6 = w.w2.extractLsb' 0 6 ∧ c.c6.toNat = w.w2.toNat % 64 ∧
      t.pipe.br = s.pipe.br ∧ t.outs.valid = s.outs.valid) ∧
  decodeWords ⟨0x0001, 0, 0, 0⟩ = ⟨0, 0, 0, 0, 1024, 0⟩ ∧
  (decodeWords ⟨0, 0, 0, 0xFFFF⟩).c3 = 1023 ∧
  decodeWords ⟨0x9C40, 0xFA32, 0x9617, 0xAF1C⟩ = ⟨20000, 1500, 700, 600, 1000, 50⟩

/-- Each word bit lands in exactly one coefficient bit (R141 to R146), so the decoder is a bijection. 41_decoder.md R148 marks
this as its own inference: "So the decoder is a bijection between the 2^64 word combinations and the 2^64 coefficient
combinations". -/
def Obligations.DecoderIsBijection : Prop :=
  Function.Bijective decodeWords ∧
  ∀ w : WordVals,
    w.w1.extractLsb' 1 15 = (decodeWords w).c1 ∧ w.w1.extractLsb' 0 1 = (decodeWords w).c5.extractLsb' 10 1 ∧
    w.w2.extractLsb' 6 10 = (decodeWords w).c5.extractLsb' 0 10 ∧ w.w2.extractLsb' 0 6 = (decodeWords w).c6 ∧
    w.w3.extractLsb' 6 10 = (decodeWords w).c4 ∧
    w.w3.extractLsb' 0 6 = (decodeWords w).c2.extractLsb' 6 6 ∧
    w.w4.extractLsb' 6 10 = (decodeWords w).c3 ∧ w.w4.extractLsb' 0 6 = (decodeWords w).c2.extractLsb' 0 6

/-- Re-packing inverts decoding (R141 to R147), and decoding inverts re-packing. 41_decoder.md R149 marks this as its own
inference: "The inverse of the decoder (re-packing)". -/
def Obligations.RepackInvertsDecode : Prop :=
  (∀ w : WordVals, repack (decodeWords w) = w) ∧ (∀ c : CoefVals, decodeWords (repack c) = c)

/-! ### The compensation pipeline (42_compensation.md) -/

/-- R161 to R169: after COMPUTE the registers of steps 1 to 7 hold the exact integers of the formulas, every shift a
floor, each in the range the rule gives. -/
def Obligations.FirstOrderRegisters : Prop :=
  ∀ (s : State) (c : CoefVals) (m : MeasVals), s.coefs.vals = some c → s.raw.meas = some m →
    ∃ (t : State) (v : PipeInts), exec .compute s = .next t ∧ HoldsInts t.pipe v ∧
      v.ut1 = 8 * (c.c5.toNat : Int) + 20224 ∧
      v.dt = (m.d2.toNat : Int) - v.ut1 ∧
      v.temp = 200 + Int.fdiv (v.dt * (c.c6.toNat + 50)) (2 ^ 10) ∧
      v.off = (c.c2.toNat : Int) * 4 + Int.fdiv (((c.c4.toNat : Int) - 512) * v.dt) (2 ^ 12) ∧
      v.sens = (c.c1.toNat : Int) + Int.fdiv ((c.c3.toNat : Int) * v.dt) (2 ^ 10) + 24576 ∧
      v.x = Int.fdiv (v.sens * ((m.d1.toNat : Int) - 7168)) (2 ^ 14) - v.off ∧
      v.p = Int.fdiv (v.x * 10) (2 ^ 5) + 2500 ∧
      (20224 ≤ v.ut1 ∧ v.ut1 ≤ 36600) ∧ (-36600 ≤ v.dt ∧ v.dt ≤ 45311) ∧ (-3839 ≤ v.temp ∧ v.temp ≤ 5200) ∧
      (-5664 ≤ v.off ∧ v.off ≤ 22032) ∧ (-11989 ≤ v.sens ∧ v.sens ≤ 102609) ∧
      (-66924 ≤ v.x ∧ v.x ≤ 371202) ∧ (-18414 ≤ v.p ∧ v.p ≤ 118500)

/-- R170: the branch COMPUTE records is that of the first-order `TEMP` alone, both comparisons strict. -/
def Obligations.BranchSelection : Prop :=
  ∀ (s : State) (c : CoefVals) (m : MeasVals), s.coefs.vals = some c → s.raw.meas = some m →
    ∃ (t : State) (v : PipeInts), exec .compute s = .next t ∧ HoldsInts t.pipe v ∧
      (v.temp < 200 → v.br = 0b01) ∧ (400 < v.temp → v.br = 0b10) ∧
      (200 ≤ v.temp → v.temp ≤ 400 → v.br = 0b00)

/-- R171, R172, R173: after COMPUTE `BR`, `T2` and `P2` hold the branch of the first-order `TEMP` and the exact integers
of that branch's formulas on the first-order `TEMP` and `P`, in the ranges the rules give. -/
def Obligations.SecondOrderRegisters : Prop :=
  ∀ (s : State) (c : CoefVals) (m : MeasVals), s.coefs.vals = some c → s.raw.meas = some m →
    ∃ (t : State) (v : PipeInts), exec .compute s = .next t ∧ HoldsInts t.pipe v ∧
      (v.temp < 200 → v.br = 0b01 ∧
        v.t2 = Int.fdiv (11 * (c.c6.toNat + 24) * (200 - v.temp) ^ 2) (2 ^ 20) ∧
        v.p2 = Int.fdiv (3 * v.t2 * (v.p - 3500)) (2 ^ 14) ∧
        0 ≤ v.t2 ∧ v.t2 ≤ 14888 ∧ -56965 ≤ v.p2 ∧ v.p2 ≤ 175188) ∧
      (400 < v.temp → v.br = 0b10 ∧
        v.t2 = Int.fdiv (3 * (c.c6.toNat + 24) * (450 - v.temp) ^ 2) (2 ^ 20) ∧
        v.p2 = Int.fdiv (v.t2 * (v.p - 10000)) (2 ^ 13) ∧
        0 ≤ v.t2 ∧ v.t2 ≤ 5616 ∧ -19480 ≤ v.p2 ∧ v.p2 ≤ 74381) ∧
      (200 ≤ v.temp → v.temp ≤ 400 → v.br = 0b00 ∧ v.t2 = 0 ∧ v.p2 = 0)

/-- R174 (and R181 item 3): after COMPUTE `TEMP_FIN` and `P_FIN` hold the corrected values exactly, and both fit the 32-bit
output registers. -/
def Obligations.CorrectedRegisters : Prop :=
  ∀ (s : State) (c : CoefVals) (m : MeasVals), s.coefs.vals = some c → s.raw.meas = some m →
    ∃ (t : State) (v : PipeInts), exec .compute s = .next t ∧ HoldsInts t.pipe v ∧
      v.tempFin = v.temp - v.t2 ∧ v.pFin = v.p - v.p2 ∧ v.tempFin ≤ v.temp ∧
      -(2 ^ 31) ≤ v.tempFin ∧ v.tempFin < 2 ^ 31 ∧ -(2 ^ 31) ≤ v.pFin ∧ v.pFin < 2 ^ 31

/-- R177, 90_conflicts.md C2: at 200 and 400 COMPUTE takes NONE; 199 selects LOW and 401 HIGH; in all four cases
`T2 = P2 = 0`. -/
def Obligations.BoundariesAreUncorrected : Prop :=
  ∀ (s : State) (c : CoefVals) (m : MeasVals), s.coefs.vals = some c → s.raw.meas = some m →
    ∃ (t : State) (v : PipeInts), exec .compute s = .next t ∧ HoldsInts t.pipe v ∧
      (v.temp = 200 ∨ v.temp = 400 → v.br = 0b00 ∧ v.t2 = 0 ∧ v.p2 = 0) ∧
      (v.temp = 199 → v.br = 0b01 ∧ v.t2 = 0 ∧ v.p2 = 0) ∧
      (v.temp = 401 → v.br = 0b10 ∧ v.t2 = 0 ∧ v.p2 = 0)

/-- Where the correction of step 8 (R171, R172, R173) is zero, for every `C6` in 0 to 63 (R147); so for `TEMP` from 167 to
513 the results are those of NONE, and a threshold of 450 would give the same results as 400. 42_compensation.md R178
marks this as its own inference: "Where the correction is zero, for every `C6` in 0 to 63". -/
def Obligations.CorrectionIsZeroInBand : Prop :=
  (∀ c6 temp : Int, 0 ≤ c6 → c6 ≤ 63 → temp < 200 →
    (t2Of .low c6 temp = 0 ↔ 11 * (c6 + 24) * (200 - temp) ^ 2 < 2 ^ 20) ∧
    (167 ≤ temp → t2Of .low c6 temp = 0)) ∧
  IsGreatest {temp : Int | temp < 200 ∧ 0 < t2Of .low 63 temp} 166 ∧
  IsGreatest {temp : Int | temp < 200 ∧ 0 < t2Of .low 0 temp} 136 ∧
  (∀ c6 temp : Int, 0 ≤ c6 → c6 ≤ 63 → 400 < temp →
    (t2Of .high c6 temp = 0 ↔ 3 * (c6 + 24) * (450 - temp) ^ 2 < 2 ^ 20) ∧
    (temp ≤ 513 → t2Of .high c6 temp = 0)) ∧
  IsLeast {temp : Int | 400 < temp ∧ 0 < t2Of .high 63 temp} 514 ∧
  IsLeast {temp : Int | 400 < temp ∧ 0 < t2Of .high 0 temp} 571 ∧
  (∀ (b : Branch) (p : Int), p2Of b 0 p = 0) ∧
  (∀ (c6 : Int) (f : FirstOrder), 0 ≤ c6 → c6 ≤ 63 → 167 ≤ f.temp → f.temp ≤ 513 →
    secondOrder (branchOf f.temp) c6 f = secondOrder .none c6 f) ∧
  (∀ (c6 : Int) (f : FirstOrder), 0 ≤ c6 → c6 ≤ 63 →
    secondOrder (branchOf f.temp) c6 f =
      secondOrder (if f.temp < 200 then .low else if 450 < f.temp then .high else .none) c6 f)

/-- The signs of the corrections of R171 to R174. 42_compensation.md R179 marks this as its own inference: "`T2 >= 0` in every
branch, because `C6 + 24 > 0` and a square is non-negative". -/
def Obligations.CorrectionSigns : Prop :=
  ∀ (b : Branch) (c6 : Int) (f : FirstOrder), 0 ≤ c6 → c6 ≤ 63 →
    let g := secondOrder b c6 f
    0 ≤ g.t2 ∧ g.tempFin ≤ f.temp ∧ (g.t2 = 0 → g.p2 = 0) ∧
    (b = .low → 0 < g.t2 → (3500 ≤ f.p → 0 ≤ g.p2) ∧ (f.p < 3500 → g.p2 < 0)) ∧
    (b = .high → 0 < g.t2 → (10000 ≤ f.p → 0 ≤ g.p2) ∧ (f.p < 10000 → g.p2 < 0))

/-- With `C1..C6` and `D2` fixed, the first-order `P` (R168, R169) moves with `D1` in the direction of the sign of `SENS`.
42_compensation.md R180 marks this as its own inference: "`P` is non-decreasing in `D1` when `SENS > 0`". -/
def Obligations.PressureIsMonotoneInD1 : Prop :=
  ∀ (c : CoefVals) (m n : MeasVals), m.d2 = n.d2 → m.d1.toNat ≤ n.d1.toNat →
    let f := firstOrder (compIn c m)
    let g := firstOrder (compIn c n)
    f.sens = g.sens ∧ f.off = g.off ∧
    (0 < f.sens → f.p ≤ g.p) ∧ (f.sens < 0 → g.p ≤ f.p) ∧ (f.sens = 0 → f.p = g.p)

/-- R182, 90_conflicts.md C3: with an accumulator of 35 bits or more no input makes a value of R163 to R174 overflow; 34
bits and 32 bits are not enough. The widths are the inference of 42_compensation.md R181, "Width analysis"; that the
test is made at the values of its table is the model's choice (log 13). -/
def Obligations.ThirtyFiveBitsSuffice : Prop :=
  (∀ (w : Nat) (c : CoefVals) (m : MeasVals), 35 ≤ w →
    overflows w (branchOf (firstOrder (compIn c m)).temp) (compIn c m) = false) ∧
  (∃ (c : CoefVals) (m : MeasVals),
    overflows 34 (branchOf (firstOrder (compIn c m)).temp) (compIn c m) = true) ∧
  overflows 32 .high (compIn (decodeWords ⟨0xFFFE, 0x0000, 0x8000, 0xFFC0⟩) ⟨0xFFFF, 0xFFFF⟩) = true

/-- R183: COMPUTE reads nothing but `C1..C6`, `D1` and `D2`: two states that agree on them get the same pipeline
registers. -/
def Obligations.ComputeIsDeterministic : Prop :=
  ∀ s s' t t' : State, s.coefs = s'.coefs → s.raw.d1 = s'.raw.d1 → s.raw.d2 = s'.raw.d2 →
    exec .compute s = .next t → exec .compute s' = .next t' → t.pipe = t'.pipe

/-! ### Frames -/

/-- The frame of the seven wire instructions (R102 to R110, "Registers written" of R110 to R116): coefficients, pipeline
and output registers never change; the destination register and `SEQ` only in an answered phase 7, `RXH` only in an
answered phase 6, `LINK_MODE` only in an answered phase 0 or 6, `TIMER` beyond a tick only in an answered phase 4 with a
delay; at most one exchange is added to the events. -/
def Obligations.WireInstructionsFrame : Prop :=
  ∀ row ∈ [(Instr.reset24, (none : Option Dest)), (.rdcal1, some .w1), (.rdcal2, some .w2), (.rdcal3, some .w3),
      (.rdcal4, some .w4), (.convd1, some .d1), (.convd2, some .d2)],
    ∀ s t : State, exec row.1 s = .next t →
      t.coefs = s.coefs ∧ t.pipe = s.pipe ∧ t.outs = s.outs ∧
      (∀ d, row.2 ≠ some d → t.raw.read d = s.raw.read d) ∧
      (¬(s.ph = 7 ∧ s.input.answer.isSome) → t.raw = s.raw ∧ t.seq = s.seq) ∧
      (¬(s.ph = 6 ∧ s.input.answer.isSome) → t.rxh = s.rxh) ∧
      (¬((s.ph = 0 ∨ s.ph = 6) ∧ s.input.answer.isSome) → t.linkMode = s.linkMode) ∧
      (¬(s.ph = 4 ∧ s.input.answer.isSome ∧ (row.1 = .convd1 ∨ row.1 = .convd2)) →
        t.timer = tickTimer s.input.tick s.timer) ∧
      (t.events = s.events ∨ ∃ m tx rx, t.events = .exchange m tx rx :: s.events) ∧
      t.inputs = s.inputs.tail ∧ t.clock = s.clock + 1

/-- The frame of DECODE (R140): beyond `C1` to `C6` and `SEQ`, only a tick reaches `TIMER`. -/
def Obligations.DecodeFrame : Prop :=
  ∀ s t : State, exec .decode s = .next t →
    t.raw = s.raw ∧ t.pipe = s.pipe ∧ t.outs = s.outs ∧ t.ph = s.ph ∧ t.linkMode = s.linkMode ∧ t.rxh = s.rxh ∧
    t.events = s.events ∧ t.timer = tickTimer s.input.tick s.timer ∧ t.inputs = s.inputs.tail ∧
    t.clock = s.clock + 1

/-- The frame of COMPUTE (R160): beyond the pipeline registers and `SEQ`, only a tick reaches `TIMER`. -/
def Obligations.ComputeFrame : Prop :=
  ∀ s t : State, exec .compute s = .next t →
    t.raw = s.raw ∧ t.coefs = s.coefs ∧ t.outs = s.outs ∧ t.ph = s.ph ∧ t.linkMode = s.linkMode ∧ t.rxh = s.rxh ∧
    t.events = s.events ∧ t.timer = tickTimer s.input.tick s.timer ∧ t.inputs = s.inputs.tail ∧
    t.clock = s.clock + 1

/-- The frame of REPORT (R215): beyond the output registers, the report event and `SEQ`, only a tick reaches
`TIMER`. -/
def Obligations.ReportFrame : Prop :=
  ∀ s t : State, exec .report s = .next t →
    t.raw = s.raw ∧ t.coefs = s.coefs ∧ t.pipe = s.pipe ∧ t.ph = s.ph ∧ t.linkMode = s.linkMode ∧ t.rxh = s.rxh ∧
    (∃ r, t.events = .report r :: s.events) ∧ t.timer = tickTimer s.input.tick s.timer ∧
    t.inputs = s.inputs.tail ∧ t.clock = s.clock + 1

/-- The frame of WAIT (R216): it changes `PH`, `SEQ` and `TIMER` only; `SEQ` changes only at the end of the wait. -/
def Obligations.WaitFrame : Prop :=
  ∀ s t : State, exec .wait s = .next t →
    t.raw = s.raw ∧ t.coefs = s.coefs ∧ t.pipe = s.pipe ∧ t.outs = s.outs ∧ t.linkMode = s.linkMode ∧
    t.rxh = s.rxh ∧ t.events = s.events ∧ t.inputs = s.inputs.tail ∧ t.clock = s.clock + 1 ∧
    (s.ph ≠ 0 → t.timer = tickTimer s.input.tick s.timer) ∧ (¬(s.ph = 1 ∧ s.timer = 0) → t.seq = s.seq)

/-! ### Whole-machine rules -/

/-- R20 (column "written by"), R21: which step writes which register, over every clock without reset. -/
def Obligations.OnlyTheNamedStepWrites : Prop :=
  ∀ s t : State, s.input.rst = false → step s = .next t →
    (t.raw.w1 ≠ s.raw.w1 → s.seq = 0 ∧ s.ph = 7) ∧ (t.raw.w2 ≠ s.raw.w2 → s.seq = 1 ∧ s.ph = 7) ∧
    (t.raw.w3 ≠ s.raw.w3 → s.seq = 2 ∧ s.ph = 7) ∧ (t.raw.w4 ≠ s.raw.w4 → s.seq = 3 ∧ s.ph = 7) ∧
    (t.raw.d1 ≠ s.raw.d1 → s.seq = 5 ∧ s.ph = 7) ∧ (t.raw.d2 ≠ s.raw.d2 → s.seq = 6 ∧ s.ph = 7) ∧
    (t.coefs ≠ s.coefs → s.seq = 4) ∧ (t.pipe ≠ s.pipe → s.seq = 7) ∧ (t.outs ≠ s.outs → s.seq = 8) ∧
    (t.ph ≠ s.ph → xferStep s.seq = true ∨ s.seq = 9) ∧
    (t.linkMode ≠ s.linkMode → xferStep s.seq = true ∧ (s.ph = 0 ∨ s.ph = 6)) ∧
    (t.rxh ≠ s.rxh → xferStep s.seq = true ∧ s.ph = 6)

/-- R109: `LINK_MODE` changes only in phases 0 and 6, each of which writes it before its exchange: the exchange of that
clock already runs in the new mode. -/
def Obligations.ModeChangesBeforeExchange : Prop :=
  ∀ s t : State, s.input.rst = false → step s = .next t →
    (t.linkMode ≠ s.linkMode → xferStep s.seq = true ∧ s.input.answer.isSome ∧ (s.ph = 0 ∨ s.ph = 6)) ∧
    (∀ rx, xferStep s.seq = true → s.input.answer = some rx → s.ph = 0 →
      t.linkMode = .cmd ∧ t.events = .exchange .cmd 0x15 rx :: s.events) ∧
    (∀ rx, xferStep s.seq = true → s.input.answer = some rx → s.ph = 6 →
      t.linkMode = .resp ∧ t.events = .exchange .resp 0x00 rx :: s.events)

/-- R108: in phases 0 to 4 the byte received is written to no register: two clocks that differ in that byte alone give
states that differ in their event histories alone. -/
def Obligations.CommandPhaseBytesAreDiscarded : Prop :=
  ∀ (s : State) (tick : Bool) (a b : Byte) (rest : List Input), xferStep s.seq = true → s.ph.toNat ≤ 4 →
    ∃ t u : State,
      step { s with inputs := ⟨false, tick, some a⟩ :: rest } = .next t ∧
      step { s with inputs := ⟨false, tick, some b⟩ :: rest } = .next u ∧
      { t with events := s.events } = { u with events := s.events }

/-- R212: a clock that completes step `s` writes `SEQ <- s + 1`, or `SEQ <- 0` for `s = 9`, and leaves `PH` at 0. Every
other clock without reset leaves `SEQ`, and block reset writes 0. -/
def Obligations.SequencerAdvances : Prop :=
  ∀ s t : State, ControlLegal s → step s = .next t →
    (s.input.rst = true → t.seq = 0) ∧
    (s.input.rst = false → StepCompletes s →
      t.ph = 0 ∧ (s.seq ≠ 9 → t.seq.toNat = s.seq.toNat + 1) ∧ (s.seq = 9 → t.seq = 0)) ∧
    (s.input.rst = false → ¬StepCompletes s → t.seq = s.seq)

/-- R26: `VALID` is 0 from reset until the first REPORT and 1 from then until the next reset. -/
def Obligations.ValidFollowsReport : Prop :=
  State.reset.outs.valid = false ∧
  ∀ s t : State, step s = .next t →
    (s.input.rst = true → t.outs.valid = false) ∧
    (s.input.rst = false → (t.outs.valid = true ↔ s.outs.valid = true ∨ s.seq = 8))

/-- R243, R246 to R248: `TIMER` after a clock without reset. A load absorbs a tick of the same clock; in every other
clock a tick decrements it. -/
def Obligations.TickAndLoad : Prop :=
  ∀ s t : State, s.input.rst = false → step s = .next t →
    t.timer.toNat =
      if (s.seq = 5 ∨ s.seq = 6) ∧ s.ph = 4 ∧ s.input.answer.isSome then 35
      else if s.seq = 9 ∧ s.ph = 0 then 5000
      else if s.input.tick = true then s.timer.toNat - 1
      else s.timer.toNat

/-- R70, R100, R215, R270: a clock adds at most one event. It adds an exchange exactly where `lk_req` is high and the
link answers, and then `lk_mode` and `lk_tx` are the exchange's; it adds a report exactly where `rpt_valid` is high, and
then `rpt_*` are its fields. -/
def Obligations.PortsShowEvents : Prop :=
  ∀ s t : State, step s = .next t →
    (t.events = s.events ∨ ∃ e, t.events = e :: s.events) ∧
    (∀ m tx rx, t.events = .exchange m tx rx :: s.events ↔
      lkReq s = true ∧ lkMode s = m ∧ lkTx s = some tx ∧ s.input.answer = some rx) ∧
    (∀ r, t.events = .report r :: s.events ↔ rptValid s = true ∧ rptData s = some r)

/-- R215: the data of the report port stay as they are until the next REPORT. That they stay across block reset too (log 7)
and that there are none before the first REPORT (log 25) is the model's choice. -/
def Obligations.ReportPortHolds : Prop :=
  ∀ s t : State, step s = .next t → rptValid t = false →
    rptData t = rptData s

/-! ### Reset (70_reset_and_hazards.md) -/

/-- R270, R271: the values the spec gives for reset. That every other register holds some value is the model's choice
(log 1), not the spec's. -/
def Obligations.ResetState : Prop :=
  State.reset.seq = 0 ∧ State.reset.ph = 0 ∧ State.reset.linkMode = .cmd ∧ State.reset.timer = 0 ∧
  State.reset.outs.valid = false ∧ State.reset.raw.words.isSome ∧ State.reset.raw.meas.isSome ∧
  State.reset.coefs.vals.isSome ∧ PipeWritten State.reset.pipe ∧ State.reset.outs.tempOut.isSome ∧
  State.reset.outs.pOut.isSome ∧ State.reset.rxh.isSome

/-- R243, R272, R273: in any state a clock with `rst` gives the reset state: no event is added, a tick is lost. The last
clause says that this state is the model's `State.reset`: the values it gives the registers that R270 leaves UNSPECIFIED
are the model's choice (log 1), and so are the event history that stays (log 6) and the inputs and the counter (log 3). -/
def Obligations.ResetWinsOverEverything : Prop :=
  ∀ s : State, s.input.rst = true →
    ∃ t : State, step s = .next t ∧ t.seq = 0 ∧ t.ph = 0 ∧ t.linkMode = .cmd ∧ t.timer = 0 ∧ t.outs.valid = false ∧
      t.events = s.events ∧ t = { State.reset with events := s.events, inputs := s.inputs.tail, clock := s.clock + 1 }

/-- R271: the first step after reset is phase 0 of `XFER RDCAL1`: 15 goes out in `MODE_CMD`. -/
def Obligations.FirstStepAfterReset : Prop :=
  ∀ (tick : Bool) (rx : Byte) (rest : List Input),
    step { State.reset with inputs := ⟨false, tick, some rx⟩ :: rest } = .next { State.reset with
      ph := 1, linkMode := .cmd, events := [.exchange .cmd 0x15 rx], inputs := rest, clock := 1 }

/-! ### Invariants -/

/-- All the invariants hold at reset, and in the state of R270 read literally. -/
def Obligations.InvariantsHoldAtReset : Prop :=
  (ControlLegal State.reset ∧ WrittenBeforeRead State.reset ∧ OnTheWire State.reset ∧ DataFlow State.reset) ∧
  (ControlLegal unwritten ∧ WrittenBeforeRead unwritten ∧ OnTheWire unwritten ∧ DataFlow unwritten)

/-- R25, R33 to R36, R109, R249: every clock keeps the control registers legal. -/
def Obligations.StepKeepsControlLegal : Prop :=
  ∀ s t : State, ControlLegal s → step s = .next t → ControlLegal t

/-- R28, R283: every clock keeps "written before read". -/
def Obligations.StepKeepsWrittenBeforeRead : Prop :=
  ∀ s t : State, ControlLegal s → WrittenBeforeRead s → step s = .next t → WrittenBeforeRead t

/-- R28, R240, R218: a state in which the control registers are legal and each register is written before it is read
has a next clock, whatever the environment does: it meets no fault and no refusal. -/
def Obligations.InvariantStateHasNextClock : Prop :=
  ∀ s : State, ControlLegal s → WrittenBeforeRead s → ∃ t : State, step s = .next t

/-- R67, R101, R107, R281: every clock keeps the wire's order: the exchanges of a transaction come in order with nothing
between them. -/
def Obligations.StepKeepsWireOrder : Prop :=
  ∀ s t : State, ControlLegal s → OnTheWire s → step s = .next t → OnTheWire t

/-- R219: every clock keeps the data flow from the raw words to the report; so every report ever emitted states the
exact function of its own six words. -/
def Obligations.StepKeepsReportsExact : Prop :=
  ∀ s t : State, ControlLegal s → DataFlow s → step s = .next t → DataFlow t

/-- R28: two states that differ at most in registers the cycle has not written yet go on doing so, with the same
events. -/
def Obligations.UnwrittenRegistersNeverShow : Prop :=
  ∀ s t : State, ControlLegal s → WrittenBeforeRead s → SameVisible s t →
    ∃ s' t' : State, step s = .next s' ∧ step t = .next t' ∧ SameVisible s' t'

/-- R28, R270 (and log 1): whatever the environment does, the runs that start from `State.reset` and from the reset state
in which the UNSPECIFIED registers hold no value never stop and show the same events and the same valid results: the
values the model names for power-up (log 1) reach neither a report nor the wire. After a clock with `rst` inside the run
both runs hold the values of `State.reset`; that these do not show either is what UnwrittenRegistersNeverShow says. -/
def Obligations.ResetValuesNeverShow : Prop :=
  ∀ (inputs : List Input) (k : Nat), ∃ s t : State,
    Host.Core.run core k ({ State.reset with inputs := inputs } : State) = .next s ∧
    Host.Core.run core k ({ unwritten with inputs := inputs } : State) = .next t ∧
    s.events = t.events ∧ resultPort s = resultPort t

/-! ### Several clocks -/

/-- R86, R101, R105, R117: the clock that ends a transaction leaves its seven exchanges as the newest events, in order,
and the destination holds the two bytes received in phases 6 and 7. -/
def Obligations.CompletedTransaction : Prop :=
  ∀ (s t : State) (cmd : Word16) (delay : Millis) (dest : Dest) (lo : Byte),
    OnTheWire s → s.input.rst = false → microprogram s.seq = some (.xfer cmd delay dest) → s.ph = 7 →
    s.input.answer = some lo → step s = .next t →
    (t.events.take 7).map sent = ((sendsOf cmd).map some).reverse ∧
    ∃ (hi : Byte) (es : List Event),
      t.events = .exchange .resp 0x00 lo :: .exchange .resp 0x00 hi :: es ∧
      t.raw.read dest = some (wordOfBytes hi lo)

/-- R101, R111 to R114: seven answered clocks from phase 0 of a calibration read are the whole transaction. -/
def Obligations.CalibrationReadRuns : Prop :=
  ∀ row ∈ [((0 : BitVec 4), (0x1D : Byte), (0x50 : Byte), Dest.w1), (1, 0x1D, 0x60, .w2), (2, 0x1D, 0x90, .w3),
      (3, 0x1D, 0xA0, .w4)],
    ∀ (s : State) (a b c d e f g : Byte × Bool) (rest : List Input),
      s.seq = row.1 → s.ph = 0 → s.inputs = answers [a, b, c, d, e, f, g] ++ rest →
      ∃ t : State, Host.Core.run core 7 s = .next t ∧
        t.raw = s.raw.write row.2.2.2 (wordOfBytes f.1 g.1) ∧ t.rxh = some f.1 ∧ t.linkMode = .resp ∧
        t.seq = row.1 + 1 ∧ t.ph = 0 ∧ t.coefs = s.coefs ∧ t.pipe = s.pipe ∧ t.outs = s.outs ∧ t.inputs = rest ∧
        t.events = .exchange .resp 0x00 g.1 :: .exchange .resp 0x00 f.1 :: .exchange .cmd row.2.2.1 e.1 ::
          .exchange .cmd row.2.1 d.1 :: .exchange .cmd 0x40 c.1 :: .exchange .cmd 0x55 b.1 ::
          .exchange .cmd 0x15 a.1 :: s.events

/-- R103, R248, R280: a conversion wait with `TIMER = n` lasts while fewer than n ticks have come, with nothing sent. That it
then ends in the clock right after the n-th tick is the model's choice (log 4: one step is one clock, which reads `TIMER`
before its tick); R248 gives only "at least `n`" ticks, and no upper bound. -/
def Obligations.ConversionWaitLasts : Prop :=
  ∀ (s : State) (is : List Input) (i j : Input) (rest : List Input),
    xferStep s.seq = true → s.ph = 5 → s.inputs = is ++ i :: j :: rest → noReset (is ++ [i, j]) = true →
    tickCount is + 1 = s.timer.toNat → i.tick = true →
    (∃ u : State, Host.Core.run core is.length s = .next u ∧ u.ph = 5 ∧ u.seq = s.seq ∧ u.timer = 1 ∧
      u.events = s.events) ∧
    (∃ t : State, Host.Core.run core (is.length + 2) s = .next t ∧ t.ph = 6 ∧ t.seq = s.seq ∧ t.timer = 0 ∧
      t.linkMode = s.linkMode ∧ t.events = s.events)

/-- R216, R248: the inter-cycle wait with `TIMER = n` lasts while fewer than n ticks have come. That it then ends in the clock
right after the n-th tick, at phase 0 of step 0, is the model's choice (log 4: one step is one clock, which reads `TIMER`
before its tick); R248 gives only "at least `n`" ticks, and no upper bound. -/
def Obligations.CycleWaitLasts : Prop :=
  ∀ (s : State) (is : List Input) (i j : Input) (rest : List Input),
    s.seq = 9 → s.ph = 1 → s.inputs = is ++ i :: j :: rest → noReset (is ++ [i, j]) = true →
    tickCount is + 1 = s.timer.toNat → i.tick = true →
    (∃ u : State, Host.Core.run core is.length s = .next u ∧ u.ph = 1 ∧ u.seq = 9 ∧ u.timer = 1 ∧
      u.events = s.events) ∧
    (∃ t : State, Host.Core.run core (is.length + 2) s = .next t ∧ t.ph = 0 ∧ t.seq = 0 ∧ t.timer = 0 ∧
      t.linkMode = s.linkMode ∧ t.events = s.events)
end

