-- ==== Sys2Proof/Laws/State.lean ====
section
/-! SUPPORT. One lemma per field per update of the state, each true by definition. -/

namespace Sys2Proof.Machine

variable (s : State)

/-! ### setRaw -/

@[simp] theorem State.setRaw_raw (r : RawWords) : (s.setRaw r).raw = r := rfl
@[simp] theorem State.setRaw_coefs (r : RawWords) : (s.setRaw r).coefs = s.coefs := rfl
@[simp] theorem State.setRaw_pipe (r : RawWords) : (s.setRaw r).pipe = s.pipe := rfl
@[simp] theorem State.setRaw_outs (r : RawWords) : (s.setRaw r).outs = s.outs := rfl
@[simp] theorem State.setRaw_seq (r : RawWords) : (s.setRaw r).seq = s.seq := rfl
@[simp] theorem State.setRaw_ph (r : RawWords) : (s.setRaw r).ph = s.ph := rfl
@[simp] theorem State.setRaw_linkMode (r : RawWords) : (s.setRaw r).linkMode = s.linkMode := rfl
@[simp] theorem State.setRaw_timer (r : RawWords) : (s.setRaw r).timer = s.timer := rfl
@[simp] theorem State.setRaw_rxh (r : RawWords) : (s.setRaw r).rxh = s.rxh := rfl
@[simp] theorem State.setRaw_events (r : RawWords) : (s.setRaw r).events = s.events := rfl
@[simp] theorem State.setRaw_inputs (r : RawWords) : (s.setRaw r).inputs = s.inputs := rfl
@[simp] theorem State.setRaw_clock (r : RawWords) : (s.setRaw r).clock = s.clock := rfl
@[simp] theorem State.setRaw_input (r : RawWords) : (s.setRaw r).input = s.input := rfl

/-! ### setCoefs -/

@[simp] theorem State.setCoefs_raw (c : Coefs) : (s.setCoefs c).raw = s.raw := rfl
@[simp] theorem State.setCoefs_coefs (c : Coefs) : (s.setCoefs c).coefs = c := rfl
@[simp] theorem State.setCoefs_pipe (c : Coefs) : (s.setCoefs c).pipe = s.pipe := rfl
@[simp] theorem State.setCoefs_outs (c : Coefs) : (s.setCoefs c).outs = s.outs := rfl
@[simp] theorem State.setCoefs_seq (c : Coefs) : (s.setCoefs c).seq = s.seq := rfl
@[simp] theorem State.setCoefs_ph (c : Coefs) : (s.setCoefs c).ph = s.ph := rfl
@[simp] theorem State.setCoefs_linkMode (c : Coefs) : (s.setCoefs c).linkMode = s.linkMode := rfl
@[simp] theorem State.setCoefs_timer (c : Coefs) : (s.setCoefs c).timer = s.timer := rfl
@[simp] theorem State.setCoefs_rxh (c : Coefs) : (s.setCoefs c).rxh = s.rxh := rfl
@[simp] theorem State.setCoefs_events (c : Coefs) : (s.setCoefs c).events = s.events := rfl
@[simp] theorem State.setCoefs_inputs (c : Coefs) : (s.setCoefs c).inputs = s.inputs := rfl
@[simp] theorem State.setCoefs_clock (c : Coefs) : (s.setCoefs c).clock = s.clock := rfl
@[simp] theorem State.setCoefs_input (c : Coefs) : (s.setCoefs c).input = s.input := rfl

/-! ### setPipe -/

@[simp] theorem State.setPipe_raw (p : Pipe) : (s.setPipe p).raw = s.raw := rfl
@[simp] theorem State.setPipe_coefs (p : Pipe) : (s.setPipe p).coefs = s.coefs := rfl
@[simp] theorem State.setPipe_pipe (p : Pipe) : (s.setPipe p).pipe = p := rfl
@[simp] theorem State.setPipe_outs (p : Pipe) : (s.setPipe p).outs = s.outs := rfl
@[simp] theorem State.setPipe_seq (p : Pipe) : (s.setPipe p).seq = s.seq := rfl
@[simp] theorem State.setPipe_ph (p : Pipe) : (s.setPipe p).ph = s.ph := rfl
@[simp] theorem State.setPipe_linkMode (p : Pipe) : (s.setPipe p).linkMode = s.linkMode := rfl
@[simp] theorem State.setPipe_timer (p : Pipe) : (s.setPipe p).timer = s.timer := rfl
@[simp] theorem State.setPipe_rxh (p : Pipe) : (s.setPipe p).rxh = s.rxh := rfl
@[simp] theorem State.setPipe_events (p : Pipe) : (s.setPipe p).events = s.events := rfl
@[simp] theorem State.setPipe_inputs (p : Pipe) : (s.setPipe p).inputs = s.inputs := rfl
@[simp] theorem State.setPipe_clock (p : Pipe) : (s.setPipe p).clock = s.clock := rfl
@[simp] theorem State.setPipe_input (p : Pipe) : (s.setPipe p).input = s.input := rfl

/-! ### setOutputs -/

@[simp] theorem State.setOutputs_raw (o : Outputs) : (s.setOutputs o).raw = s.raw := rfl
@[simp] theorem State.setOutputs_coefs (o : Outputs) : (s.setOutputs o).coefs = s.coefs := rfl
@[simp] theorem State.setOutputs_pipe (o : Outputs) : (s.setOutputs o).pipe = s.pipe := rfl
@[simp] theorem State.setOutputs_outs (o : Outputs) : (s.setOutputs o).outs = o := rfl
@[simp] theorem State.setOutputs_seq (o : Outputs) : (s.setOutputs o).seq = s.seq := rfl
@[simp] theorem State.setOutputs_ph (o : Outputs) : (s.setOutputs o).ph = s.ph := rfl
@[simp] theorem State.setOutputs_linkMode (o : Outputs) : (s.setOutputs o).linkMode = s.linkMode := rfl
@[simp] theorem State.setOutputs_timer (o : Outputs) : (s.setOutputs o).timer = s.timer := rfl
@[simp] theorem State.setOutputs_rxh (o : Outputs) : (s.setOutputs o).rxh = s.rxh := rfl
@[simp] theorem State.setOutputs_events (o : Outputs) : (s.setOutputs o).events = s.events := rfl
@[simp] theorem State.setOutputs_inputs (o : Outputs) : (s.setOutputs o).inputs = s.inputs := rfl
@[simp] theorem State.setOutputs_clock (o : Outputs) : (s.setOutputs o).clock = s.clock := rfl
@[simp] theorem State.setOutputs_input (o : Outputs) : (s.setOutputs o).input = s.input := rfl

/-! ### setSeq -/

@[simp] theorem State.setSeq_raw (q : BitVec 4) : (s.setSeq q).raw = s.raw := rfl
@[simp] theorem State.setSeq_coefs (q : BitVec 4) : (s.setSeq q).coefs = s.coefs := rfl
@[simp] theorem State.setSeq_pipe (q : BitVec 4) : (s.setSeq q).pipe = s.pipe := rfl
@[simp] theorem State.setSeq_outs (q : BitVec 4) : (s.setSeq q).outs = s.outs := rfl
@[simp] theorem State.setSeq_seq (q : BitVec 4) : (s.setSeq q).seq = q := rfl
@[simp] theorem State.setSeq_ph (q : BitVec 4) : (s.setSeq q).ph = s.ph := rfl
@[simp] theorem State.setSeq_linkMode (q : BitVec 4) : (s.setSeq q).linkMode = s.linkMode := rfl
@[simp] theorem State.setSeq_timer (q : BitVec 4) : (s.setSeq q).timer = s.timer := rfl
@[simp] theorem State.setSeq_rxh (q : BitVec 4) : (s.setSeq q).rxh = s.rxh := rfl
@[simp] theorem State.setSeq_events (q : BitVec 4) : (s.setSeq q).events = s.events := rfl
@[simp] theorem State.setSeq_inputs (q : BitVec 4) : (s.setSeq q).inputs = s.inputs := rfl
@[simp] theorem State.setSeq_clock (q : BitVec 4) : (s.setSeq q).clock = s.clock := rfl
@[simp] theorem State.setSeq_input (q : BitVec 4) : (s.setSeq q).input = s.input := rfl

/-! ### setPh -/

@[simp] theorem State.setPh_raw (p : BitVec 3) : (s.setPh p).raw = s.raw := rfl
@[simp] theorem State.setPh_coefs (p : BitVec 3) : (s.setPh p).coefs = s.coefs := rfl
@[simp] theorem State.setPh_pipe (p : BitVec 3) : (s.setPh p).pipe = s.pipe := rfl
@[simp] theorem State.setPh_outs (p : BitVec 3) : (s.setPh p).outs = s.outs := rfl
@[simp] theorem State.setPh_seq (p : BitVec 3) : (s.setPh p).seq = s.seq := rfl
@[simp] theorem State.setPh_ph (p : BitVec 3) : (s.setPh p).ph = p := rfl
@[simp] theorem State.setPh_linkMode (p : BitVec 3) : (s.setPh p).linkMode = s.linkMode := rfl
@[simp] theorem State.setPh_timer (p : BitVec 3) : (s.setPh p).timer = s.timer := rfl
@[simp] theorem State.setPh_rxh (p : BitVec 3) : (s.setPh p).rxh = s.rxh := rfl
@[simp] theorem State.setPh_events (p : BitVec 3) : (s.setPh p).events = s.events := rfl
@[simp] theorem State.setPh_inputs (p : BitVec 3) : (s.setPh p).inputs = s.inputs := rfl
@[simp] theorem State.setPh_clock (p : BitVec 3) : (s.setPh p).clock = s.clock := rfl
@[simp] theorem State.setPh_input (p : BitVec 3) : (s.setPh p).input = s.input := rfl

/-! ### setLinkMode -/

@[simp] theorem State.setLinkMode_raw (m : LinkMode) : (s.setLinkMode m).raw = s.raw := rfl
@[simp] theorem State.setLinkMode_coefs (m : LinkMode) : (s.setLinkMode m).coefs = s.coefs := rfl
@[simp] theorem State.setLinkMode_pipe (m : LinkMode) : (s.setLinkMode m).pipe = s.pipe := rfl
@[simp] theorem State.setLinkMode_outs (m : LinkMode) : (s.setLinkMode m).outs = s.outs := rfl
@[simp] theorem State.setLinkMode_seq (m : LinkMode) : (s.setLinkMode m).seq = s.seq := rfl
@[simp] theorem State.setLinkMode_ph (m : LinkMode) : (s.setLinkMode m).ph = s.ph := rfl
@[simp] theorem State.setLinkMode_linkMode (m : LinkMode) : (s.setLinkMode m).linkMode = m := rfl
@[simp] theorem State.setLinkMode_timer (m : LinkMode) : (s.setLinkMode m).timer = s.timer := rfl
@[simp] theorem State.setLinkMode_rxh (m : LinkMode) : (s.setLinkMode m).rxh = s.rxh := rfl
@[simp] theorem State.setLinkMode_events (m : LinkMode) : (s.setLinkMode m).events = s.events := rfl
@[simp] theorem State.setLinkMode_inputs (m : LinkMode) : (s.setLinkMode m).inputs = s.inputs := rfl
@[simp] theorem State.setLinkMode_clock (m : LinkMode) : (s.setLinkMode m).clock = s.clock := rfl
@[simp] theorem State.setLinkMode_input (m : LinkMode) : (s.setLinkMode m).input = s.input := rfl

/-! ### setTimer -/

@[simp] theorem State.setTimer_raw (n : Millis) : (s.setTimer n).raw = s.raw := rfl
@[simp] theorem State.setTimer_coefs (n : Millis) : (s.setTimer n).coefs = s.coefs := rfl
@[simp] theorem State.setTimer_pipe (n : Millis) : (s.setTimer n).pipe = s.pipe := rfl
@[simp] theorem State.setTimer_outs (n : Millis) : (s.setTimer n).outs = s.outs := rfl
@[simp] theorem State.setTimer_seq (n : Millis) : (s.setTimer n).seq = s.seq := rfl
@[simp] theorem State.setTimer_ph (n : Millis) : (s.setTimer n).ph = s.ph := rfl
@[simp] theorem State.setTimer_linkMode (n : Millis) : (s.setTimer n).linkMode = s.linkMode := rfl
@[simp] theorem State.setTimer_timer (n : Millis) : (s.setTimer n).timer = n := rfl
@[simp] theorem State.setTimer_rxh (n : Millis) : (s.setTimer n).rxh = s.rxh := rfl
@[simp] theorem State.setTimer_events (n : Millis) : (s.setTimer n).events = s.events := rfl
@[simp] theorem State.setTimer_inputs (n : Millis) : (s.setTimer n).inputs = s.inputs := rfl
@[simp] theorem State.setTimer_clock (n : Millis) : (s.setTimer n).clock = s.clock := rfl
@[simp] theorem State.setTimer_input (n : Millis) : (s.setTimer n).input = s.input := rfl

/-! ### setRxh -/

@[simp] theorem State.setRxh_raw (b : Byte) : (s.setRxh b).raw = s.raw := rfl
@[simp] theorem State.setRxh_coefs (b : Byte) : (s.setRxh b).coefs = s.coefs := rfl
@[simp] theorem State.setRxh_pipe (b : Byte) : (s.setRxh b).pipe = s.pipe := rfl
@[simp] theorem State.setRxh_outs (b : Byte) : (s.setRxh b).outs = s.outs := rfl
@[simp] theorem State.setRxh_seq (b : Byte) : (s.setRxh b).seq = s.seq := rfl
@[simp] theorem State.setRxh_ph (b : Byte) : (s.setRxh b).ph = s.ph := rfl
@[simp] theorem State.setRxh_linkMode (b : Byte) : (s.setRxh b).linkMode = s.linkMode := rfl
@[simp] theorem State.setRxh_timer (b : Byte) : (s.setRxh b).timer = s.timer := rfl
@[simp] theorem State.setRxh_rxh (b : Byte) : (s.setRxh b).rxh = some b := rfl
@[simp] theorem State.setRxh_events (b : Byte) : (s.setRxh b).events = s.events := rfl
@[simp] theorem State.setRxh_inputs (b : Byte) : (s.setRxh b).inputs = s.inputs := rfl
@[simp] theorem State.setRxh_clock (b : Byte) : (s.setRxh b).clock = s.clock := rfl
@[simp] theorem State.setRxh_input (b : Byte) : (s.setRxh b).input = s.input := rfl

/-! ### exchange -/

@[simp] theorem State.exchange_raw (m : LinkMode) (tx rx : Byte) : (s.exchange m tx rx).raw = s.raw := rfl
@[simp] theorem State.exchange_coefs (m : LinkMode) (tx rx : Byte) : (s.exchange m tx rx).coefs = s.coefs := rfl
@[simp] theorem State.exchange_pipe (m : LinkMode) (tx rx : Byte) : (s.exchange m tx rx).pipe = s.pipe := rfl
@[simp] theorem State.exchange_outs (m : LinkMode) (tx rx : Byte) : (s.exchange m tx rx).outs = s.outs := rfl
@[simp] theorem State.exchange_seq (m : LinkMode) (tx rx : Byte) : (s.exchange m tx rx).seq = s.seq := rfl
@[simp] theorem State.exchange_ph (m : LinkMode) (tx rx : Byte) : (s.exchange m tx rx).ph = s.ph := rfl
@[simp] theorem State.exchange_linkMode (m : LinkMode) (tx rx : Byte) : (s.exchange m tx rx).linkMode = s.linkMode := rfl
@[simp] theorem State.exchange_timer (m : LinkMode) (tx rx : Byte) : (s.exchange m tx rx).timer = s.timer := rfl
@[simp] theorem State.exchange_rxh (m : LinkMode) (tx rx : Byte) : (s.exchange m tx rx).rxh = s.rxh := rfl
@[simp] theorem State.exchange_events (m : LinkMode) (tx rx : Byte) : (s.exchange m tx rx).events = .exchange m tx rx :: s.events := rfl
@[simp] theorem State.exchange_inputs (m : LinkMode) (tx rx : Byte) : (s.exchange m tx rx).inputs = s.inputs := rfl
@[simp] theorem State.exchange_clock (m : LinkMode) (tx rx : Byte) : (s.exchange m tx rx).clock = s.clock := rfl
@[simp] theorem State.exchange_input (m : LinkMode) (tx rx : Byte) : (s.exchange m tx rx).input = s.input := rfl

/-! ### emit -/

@[simp] theorem State.emit_raw (r : Report) : (s.emit r).raw = s.raw := rfl
@[simp] theorem State.emit_coefs (r : Report) : (s.emit r).coefs = s.coefs := rfl
@[simp] theorem State.emit_pipe (r : Report) : (s.emit r).pipe = s.pipe := rfl
@[simp] theorem State.emit_outs (r : Report) : (s.emit r).outs = s.outs := rfl
@[simp] theorem State.emit_seq (r : Report) : (s.emit r).seq = s.seq := rfl
@[simp] theorem State.emit_ph (r : Report) : (s.emit r).ph = s.ph := rfl
@[simp] theorem State.emit_linkMode (r : Report) : (s.emit r).linkMode = s.linkMode := rfl
@[simp] theorem State.emit_timer (r : Report) : (s.emit r).timer = s.timer := rfl
@[simp] theorem State.emit_rxh (r : Report) : (s.emit r).rxh = s.rxh := rfl
@[simp] theorem State.emit_events (r : Report) : (s.emit r).events = .report r :: s.events := rfl
@[simp] theorem State.emit_inputs (r : Report) : (s.emit r).inputs = s.inputs := rfl
@[simp] theorem State.emit_clock (r : Report) : (s.emit r).clock = s.clock := rfl
@[simp] theorem State.emit_input (r : Report) : (s.emit r).input = s.input := rfl

/-! ### elapse -/

@[simp] theorem State.elapse_raw : s.elapse.raw = s.raw := rfl
@[simp] theorem State.elapse_coefs : s.elapse.coefs = s.coefs := rfl
@[simp] theorem State.elapse_pipe : s.elapse.pipe = s.pipe := rfl
@[simp] theorem State.elapse_outs : s.elapse.outs = s.outs := rfl
@[simp] theorem State.elapse_seq : s.elapse.seq = s.seq := rfl
@[simp] theorem State.elapse_ph : s.elapse.ph = s.ph := rfl
@[simp] theorem State.elapse_linkMode : s.elapse.linkMode = s.linkMode := rfl
@[simp] theorem State.elapse_timer : s.elapse.timer = tickTimer s.input.tick s.timer := rfl
@[simp] theorem State.elapse_rxh : s.elapse.rxh = s.rxh := rfl
@[simp] theorem State.elapse_events : s.elapse.events = s.events := rfl
@[simp] theorem State.elapse_inputs : s.elapse.inputs = s.inputs.tail := rfl
@[simp] theorem State.elapse_clock : s.elapse.clock = s.clock + 1 := rfl

/-! ### blockReset -/

@[simp] theorem blockReset_raw : (blockReset s).raw = State.reset.raw := rfl
@[simp] theorem blockReset_coefs : (blockReset s).coefs = State.reset.coefs := rfl
@[simp] theorem blockReset_pipe : (blockReset s).pipe = State.reset.pipe := rfl
@[simp] theorem blockReset_outs : (blockReset s).outs = State.reset.outs := rfl
@[simp] theorem blockReset_seq : (blockReset s).seq = State.reset.seq := rfl
@[simp] theorem blockReset_ph : (blockReset s).ph = State.reset.ph := rfl
@[simp] theorem blockReset_linkMode : (blockReset s).linkMode = State.reset.linkMode := rfl
@[simp] theorem blockReset_timer : (blockReset s).timer = State.reset.timer := rfl
@[simp] theorem blockReset_rxh : (blockReset s).rxh = State.reset.rxh := rfl
@[simp] theorem blockReset_events : (blockReset s).events = s.events := rfl
@[simp] theorem blockReset_inputs : (blockReset s).inputs = s.inputs.tail := rfl
@[simp] theorem blockReset_clock : (blockReset s).clock = s.clock + 1 := rfl

end Sys2Proof.Machine
end

