-- ==== Sys2Proof/Laws/Ops.lean ====
section
/-! SUPPORT. What each shared operation can do, said once: an equation for a phase that runs, and an inversion lemma
for an operation that answers a next state. -/

namespace Sys2Proof.Machine

variable {s t : State}

/-! ### The timer -/

@[simp] theorem tickTimer_zero (tick : Bool) : tickTimer tick 0 = 0 := by simp [tickTimer]

@[simp] theorem tickTimer_false (n : Millis) : tickTimer false n = n := by simp [tickTimer]

theorem tickTimer_toNat (tick : Bool) (n : Millis) :
    (tickTimer tick n).toNat = if tick = true then n.toNat - 1 else n.toNat := by
  unfold tickTimer
  by_cases ht : tick = true <;> by_cases hn : n = 0
  · simp [ht, hn]
  · have hne : n.toNat ≠ 0 := fun h => hn (BitVec.eq_of_toNat_eq (by simpa using h))
    have hlt := n.isLt
    simp only [ht, hn, ne_eq, not_false_eq_true, and_self, if_true]
    rw [BitVec.toNat_sub]
    have h1 : (1 : Millis).toNat = 1 := rfl
    omega
  · simp [ht]
  · simp [ht]

theorem tickTimer_le (tick : Bool) (n : Millis) : (tickTimer tick n).toNat ≤ n.toNat := by
  rw [tickTimer_toNat]
  split <;> omega

/-! ### Exchanges -/

theorem onAnswer_some {f : Byte → Answer} {rx : Byte} (h : s.input.answer = some rx) : onAnswer s f = f rx := by
  simp [onAnswer, h]

theorem onAnswer_none {f : Byte → Answer} (h : s.input.answer = none) : onAnswer s f = .next s.elapse := by
  simp [onAnswer, hold, h]

theorem onAnswer_cases {f : Byte → Answer} (h : onAnswer s f = .next t) :
    (s.input.answer = none ∧ t = s.elapse) ∨ ∃ rx, s.input.answer = some rx ∧ f rx = .next t := by
  cases ha : s.input.answer with
  | none => exact .inl ⟨rfl, by simpa [onAnswer, hold, ha] using h.symm⟩
  | some rx => exact .inr ⟨rx, rfl, by simpa [onAnswer, ha] using h⟩

/-! ### Raw words -/

@[simp] theorem RawWords.read_write_same (r : RawWords) (dest : Dest) (v : Word16) :
    (r.write dest v).read dest = some v := by
  cases dest <;> rfl

theorem RawWords.read_write_other (r : RawWords) {d e : Dest} (v : Word16) (h : e ≠ d) :
    (r.write d v).read e = r.read e := by
  cases d <;> cases e <;> first | rfl | exact absurd rfl h

theorem RawWords.words_eq_some {r : RawWords} {w : WordVals} :
    r.words = some w ↔ r.w1 = some w.w1 ∧ r.w2 = some w.w2 ∧ r.w3 = some w.w3 ∧ r.w4 = some w.w4 := by
  cases r with
  | mk a b c d _ _ =>
    cases w
    cases a <;> cases b <;> cases c <;> cases d <;> simp [RawWords.words]

theorem RawWords.meas_eq_some {r : RawWords} {m : MeasVals} :
    r.meas = some m ↔ r.d1 = some m.d1 ∧ r.d2 = some m.d2 := by
  cases r with
  | mk _ _ _ _ a b =>
    cases m
    cases a <;> cases b <;> simp [RawWords.meas]

theorem Coefs.vals_eq_some {c : Coefs} {v : CoefVals} : c.vals = some v ↔ c = v.regs := by
  cases c with
  | mk a b c d e f =>
    cases v
    cases a <;> cases b <;> cases c <;> cases d <;> cases e <;> cases f <;> simp [Coefs.vals, CoefVals.regs]

@[simp] theorem CoefVals.regs_vals (v : CoefVals) : v.regs.vals = some v := rfl

theorem Pipe.fin_eq_some {p : Pipe} {v : FinVals} :
    p.fin = some v ↔ p.tempFin = some v.temp ∧ p.pFin = some v.pres := by
  cases p with
  | mk _ _ _ _ _ _ _ _ _ _ a b =>
    cases v
    cases a <;> cases b <;> simp [Pipe.fin]

/-! ### The branch code -/

@[simp] theorem branchOfCode_code (b : Branch) : branchOfCode b.code = some b := by cases b <;> rfl

theorem Branch.code_ne_three (b : Branch) : b.code ≠ 0b11 := by cases b <;> decide

/-! ### A transaction's clock, by phase -/

section Phases

variable {cmd : Word16} {delay : Millis} {dest : Dest}

theorem transaction_lt3 (hc : isCommand cmd = true) (hp : s.ph.toNat < 3) :
    transaction cmd delay dest s = resetPhase s := by
  have hne : ∀ n : BitVec 3, 3 ≤ n.toNat → s.ph ≠ n := fun n hn h => by rw [h] at hp; omega
  rw [transaction, if_neg (by simp [hc]), if_neg (hne 3 (by decide)), if_neg (hne 4 (by decide)),
    if_neg (hne 5 (by decide)), if_neg (hne 6 (by decide)), if_neg (hne 7 (by decide))]

theorem transaction_3 (hc : isCommand cmd = true) (hp : s.ph = 3) :
    transaction cmd delay dest s = commandHiPhase cmd s := by
  simp [transaction, hc, hp]

theorem transaction_4 (hc : isCommand cmd = true) (hp : s.ph = 4) :
    transaction cmd delay dest s = commandLoPhase cmd delay s := by
  simp [transaction, hc, hp]

theorem transaction_5 (hc : isCommand cmd = true) (hp : s.ph = 5) :
    transaction cmd delay dest s = conversionPhase s := by
  simp [transaction, hc, hp]

theorem transaction_6 (hc : isCommand cmd = true) (hp : s.ph = 6) :
    transaction cmd delay dest s = responseHiPhase s := by
  simp [transaction, hc, hp]

theorem transaction_7 (hc : isCommand cmd = true) (hp : s.ph = 7) :
    transaction cmd delay dest s = responseLoPhase dest s := by
  simp [transaction, hc, hp]

end Phases

/-! ### The phases of a transaction, inverted -/

/-- The states a completed phase 0, 1 or 2 gives. -/
inductive ResetPhaseNext (s : State) (rx : Byte) : State → Prop where
  | first : s.ph = 0 → ResetPhaseNext s rx (((s.elapse.setLinkMode .cmd).exchange .cmd 0x15 rx).setPh 1)
  | second : s.ph = 1 → ResetPhaseNext s rx ((s.elapse.exchange .cmd 0x55 rx).setPh 2)
  | third : s.ph = 2 → ResetPhaseNext s rx ((s.elapse.exchange .cmd 0x40 rx).setPh 3)

theorem resetPhase_cases (h : resetPhase s = .next t) :
    (t = s.elapse ∧ (s.input.answer = none ∨ 3 ≤ s.ph.toNat)) ∨
      ∃ rx, s.input.answer = some rx ∧ ResetPhaseNext s rx t := by
  rcases onAnswer_cases h with ⟨ha, rfl⟩ | ⟨rx, ha, hf⟩
  · exact .inl ⟨rfl, .inl ha⟩
  · split at hf
    case isTrue h0 => cases hf; exact .inr ⟨rx, ha, .first h0⟩
    case isFalse n0 =>
    split at hf
    case isTrue h1 => cases hf; exact .inr ⟨rx, ha, .second h1⟩
    case isFalse n1 =>
    split at hf
    case isTrue h2 => cases hf; exact .inr ⟨rx, ha, .third h2⟩
    case isFalse n2 =>
    refine .inl ⟨by simpa [hold] using hf.symm, .inr ?_⟩
    generalize s.ph = p at n0 n1 n2
    revert p; decide

/-- The states an enabled phase of `XFER cmd, delay -> dest` gives. -/
inductive TransactionNext (cmd : Word16) (delay : Millis) (dest : Dest) (s : State) : State → Prop where
  | reset (rx : Byte) (t : State) : s.input.answer = some rx → ResetPhaseNext s rx t →
      TransactionNext cmd delay dest s t
  | commandHi (rx : Byte) : s.input.answer = some rx → s.ph = 3 →
      TransactionNext cmd delay dest s ((s.elapse.exchange .cmd (hiByte cmd) rx).setPh 4)
  | commandLoWait (rx : Byte) : s.input.answer = some rx → s.ph = 4 → 0 < delay.toNat →
      TransactionNext cmd delay dest s (((s.elapse.exchange .cmd (loByte cmd) rx).setTimer delay).setPh 5)
  | commandLo (rx : Byte) : s.input.answer = some rx → s.ph = 4 → delay.toNat = 0 →
      TransactionNext cmd delay dest s ((s.elapse.exchange .cmd (loByte cmd) rx).setPh 6)
  | waited : s.ph = 5 → s.timer = 0 → TransactionNext cmd delay dest s (s.elapse.setPh 6)
  | responseHi (rx : Byte) : s.input.answer = some rx → s.ph = 6 →
      TransactionNext cmd delay dest s
        ((((s.elapse.setLinkMode .resp).exchange .resp 0x00 rx).setRxh rx).setPh 7)
  | responseLo (rx hi : Byte) : s.input.answer = some rx → s.ph = 7 → s.rxh = some hi →
      TransactionNext cmd delay dest s
        ((((s.elapse.exchange .resp 0x00 rx).setRaw (s.raw.write dest (wordOfBytes hi rx))).setPh 0).setSeq
          (s.seq + 1))

/-- A clock of a transaction holds, in phase 5 while `TIMER` is not 0 and in the others while the link does not
answer, or is one of its enabled phases. -/
theorem transaction_cases {cmd : Word16} {delay : Millis} {dest : Dest}
    (h : transaction cmd delay dest s = .next t) :
    (t = s.elapse ∧ (s.ph = 5 ∧ s.timer ≠ 0 ∨ s.ph ≠ 5 ∧ s.input.answer = none)) ∨
      TransactionNext cmd delay dest s t := by
  unfold transaction at h
  split at h
  · cases h
  split at h
  case isTrue h3 =>
    rcases onAnswer_cases h with ⟨ha, rfl⟩ | ⟨rx, ha, hf⟩
    · exact .inl ⟨rfl, .inr ⟨by simp [h3], ha⟩⟩
    · cases hf; exact .inr (.commandHi rx ha h3)
  case isFalse n3 =>
  split at h
  case isTrue h4 =>
    rcases onAnswer_cases h with ⟨ha, rfl⟩ | ⟨rx, ha, hf⟩
    · exact .inl ⟨rfl, .inr ⟨by simp [h4], ha⟩⟩
    · split at hf
      case isTrue hd => cases hf; exact .inr (.commandLoWait rx ha h4 hd)
      case isFalse hd => cases hf; exact .inr (.commandLo rx ha h4 (by omega))
  case isFalse n4 =>
  split at h
  case isTrue h5 =>
    unfold conversionPhase at h
    split at h
    case isTrue h0 => cases h; exact .inr (.waited h5 h0)
    case isFalse h0 => exact .inl ⟨by simpa [hold] using h.symm, .inl ⟨h5, h0⟩⟩
  case isFalse n5 =>
  split at h
  case isTrue h6 =>
    rcases onAnswer_cases h with ⟨ha, rfl⟩ | ⟨rx, ha, hf⟩
    · exact .inl ⟨rfl, .inr ⟨n5, ha⟩⟩
    · cases hf; exact .inr (.responseHi rx ha h6)
  case isFalse n6 =>
  split at h
  case isTrue h7 =>
    rcases onAnswer_cases h with ⟨ha, rfl⟩ | ⟨rx, ha, hf⟩
    · exact .inl ⟨rfl, .inr ⟨n5, ha⟩⟩
    · split at hf
      · cases hf
      case h_2 hi hr => cases hf; exact .inr (.responseLo rx hi ha h7 hr)
  case isFalse n7 =>
  rcases resetPhase_cases h with ⟨rfl, ha | h3⟩ | ⟨rx, ha, hr⟩
  · exact .inl ⟨rfl, .inr ⟨n5, ha⟩⟩
  · exfalso
    generalize s.ph = p at n3 n4 n5 n6 n7 h3
    revert p; decide
  · exact .inr (.reset rx t ha hr)

/-- A transaction's clock stops only for a value that is no command, or in phase 7 with `RXH` unwritten. -/
theorem transaction_total {cmd : Word16} {delay : Millis} {dest : Dest} (hc : isCommand cmd = true)
    (hr : s.ph = 7 → s.rxh.isSome) : ∃ t, transaction cmd delay dest s = .next t := by
  have htot : ∀ f : Byte → Answer, (∀ rx, ∃ t, f rx = .next t) → ∃ t, onAnswer s f = .next t := by
    intro f hf
    cases ha : s.input.answer with
    | none => exact ⟨_, onAnswer_none ha⟩
    | some rx => simpa [onAnswer, ha] using hf rx
  unfold transaction
  rw [if_neg (by simp [hc])]
  split
  · exact htot _ fun rx => ⟨_, rfl⟩
  split
  · refine htot _ fun rx => ?_
    split <;> exact ⟨_, rfl⟩
  split
  · unfold conversionPhase hold
    split <;> exact ⟨_, rfl⟩
  split
  · exact htot _ fun rx => ⟨_, rfl⟩
  split
  case isTrue h7 =>
    refine htot _ fun rx => ?_
    obtain ⟨hi, hh⟩ := Option.isSome_iff_exists.mp (hr h7)
    exact ⟨_, by simp [hh]; rfl⟩
  refine htot _ fun rx => ?_
  dsimp only [hold]
  repeat' split
  all_goals exact ⟨_, rfl⟩

/-- A clock of WAIT holds, loads `TIMER`, or ends the cycle. -/
theorem waitPhase_cases {ms : Millis} (h : waitPhase ms s = .next t) :
    (t = s.elapse ∧ s.ph ≠ 0 ∧ (s.ph = 1 → s.timer ≠ 0)) ∨ (s.ph = 0 ∧ t = (s.elapse.setTimer ms).setPh 1) ∨
      (s.ph = 1 ∧ s.timer = 0 ∧ t = (s.elapse.setPh 0).setSeq 0) := by
  unfold waitPhase hold at h
  split at h
  case isTrue h0 => cases h; exact .inr (.inl ⟨h0, rfl⟩)
  case isFalse n0 =>
  split at h
  case isTrue h1 =>
    split at h
    case isTrue hz => cases h; exact .inr (.inr ⟨h1, hz, rfl⟩)
    case isFalse hz => cases h; exact .inl ⟨rfl, n0, fun _ => hz⟩
  case isFalse n1 => cases h; exact .inl ⟨rfl, n0, fun h1 => absurd h1 n1⟩

theorem waitPhase_total (ms : Millis) (s : State) : ∃ t, waitPhase ms s = .next t := by
  unfold waitPhase hold
  repeat' split
  all_goals exact ⟨_, rfl⟩

/-! ### DECODE and REPORT, inverted -/

theorem execDecode_eq {w : WordVals} (hw : s.raw.words = some w) :
    execDecode s = .next ((s.elapse.setCoefs (decodeWords w).regs).setSeq 5) := by
  simp [execDecode, hw]

theorem execDecode_cases (h : execDecode s = .next t) :
    ∃ w, s.raw.words = some w ∧ t = (s.elapse.setCoefs (decodeWords w).regs).setSeq 5 := by
  unfold execDecode at h
  split at h
  case h_1 w hw => cases h; exact ⟨w, hw, rfl⟩
  case h_2 => cases h

theorem execReport_eq {w : WordVals} {m : MeasVals} {f : FinVals} (hw : s.raw.words = some w)
    (hm : s.raw.meas = some m) (hf : s.pipe.fin = some f) :
    execReport s = .next (((s.elapse.setOutputs
      { tempOut := some (toOut f.temp), pOut := some (toOut f.pres), valid := true }).emit
      (reportOf w m f)).setSeq 9) := by
  simp [execReport, hw, hm, hf]

theorem execReport_cases (h : execReport s = .next t) :
    ∃ w m f, s.raw.words = some w ∧ s.raw.meas = some m ∧ s.pipe.fin = some f ∧
      t = ((s.elapse.setOutputs { tempOut := some (toOut f.temp), pOut := some (toOut f.pres), valid := true }).emit
        (reportOf w m f)).setSeq 9 := by
  unfold execReport at h
  split at h
  case h_1 w m f hw hm hf => cases h; exact ⟨w, m, f, hw, hm, hf, rfl⟩
  case h_2 => cases h

/-! ### One clock -/

/-- A clock is block reset, or `exec` of the fetched instruction. -/
theorem step_cases (h : step s = .next t) :
    (s.input.rst = true ∧ t = blockReset s) ∨
      (s.input.rst = false ∧ ∃ i, fetch s = .ok i ∧ exec i s = .next t) := by
  unfold step at h
  split at h
  case isTrue hr => cases h; exact .inl ⟨hr, rfl⟩
  case isFalse hr =>
    split at h
    · cases h
    case h_2 i hi => exact .inr ⟨by simpa using hr, i, hi, h⟩

end Sys2Proof.Machine
end

