-- ==== Sys2Proof/Laws/Compensation.lean ====
section
/-! SUPPORT. The ranges of the pipeline's values over all inputs (42_compensation.md R181), and what follows: COMPUTE
never stops on registers that hold values, and its 64-bit registers hold the exact integers. -/

namespace Sys2Proof.Machine

/-- The range of an input tuple: each coefficient within its width, each measurement within 16 bits. -/
structure CompIn.InRange (i : CompIn) : Prop where
  c1 : 0 ≤ i.c1 ∧ i.c1 ≤ 32767
  c2 : 0 ≤ i.c2 ∧ i.c2 ≤ 4095
  c3 : 0 ≤ i.c3 ∧ i.c3 ≤ 1023
  c4 : 0 ≤ i.c4 ∧ i.c4 ≤ 1023
  c5 : 0 ≤ i.c5 ∧ i.c5 ≤ 2047
  c6 : 0 ≤ i.c6 ∧ i.c6 ≤ 63
  d1 : 0 ≤ i.d1 ∧ i.d1 ≤ 65535
  d2 : 0 ≤ i.d2 ∧ i.d2 ≤ 65535

theorem compIn_inRange (c : CoefVals) (m : MeasVals) : (compIn c m).InRange := by
  have h1 := c.c1.isLt; have h2 := c.c2.isLt; have h3 := c.c3.isLt; have h4 := c.c4.isLt
  have h5 := c.c5.isLt; have h6 := c.c6.isLt; have h7 := m.d1.isLt; have h8 := m.d2.isLt
  constructor <;> simp only [compIn] <;> omega

/-- A product of two values in intervals, one of them non-negative. -/
theorem mul_bounds {a b l u n : Int} (hl : l ≤ a) (hu : a ≤ u) (hb : 0 ≤ b) (hn : b ≤ n) (hl0 : l ≤ 0)
    (hu0 : 0 ≤ u) : l * n ≤ a * b ∧ a * b ≤ u * n := by
  constructor <;> nlinarith

theorem ut1Of_bounds {c5 : Int} (h : 0 ≤ c5 ∧ c5 ≤ 2047) : 20224 ≤ ut1Of c5 ∧ ut1Of c5 ≤ 36600 := by
  unfold ut1Of; omega

theorem dtOf_bounds {d2 u : Int} (h : 0 ≤ d2 ∧ d2 ≤ 65535) (hu : 20224 ≤ u ∧ u ≤ 36600) :
    -36600 ≤ dtOf d2 u ∧ dtOf d2 u ≤ 45311 := by
  unfold dtOf; omega

/-- `DT * (C6 + 50)`. -/
theorem tempProd_bounds {dt c6 : Int} (h : -36600 ≤ dt ∧ dt ≤ 45311) (h6 : 0 ≤ c6 ∧ c6 ≤ 63) :
    -4135800 ≤ dt * (c6 + 50) ∧ dt * (c6 + 50) ≤ 5120143 := by
  have := mul_bounds (b := c6 + 50) (n := 113) h.1 h.2 (by omega) (by omega) (by omega) (by omega)
  omega

theorem tempOf_bounds {dt c6 : Int} (h : -36600 ≤ dt ∧ dt ≤ 45311) (h6 : 0 ≤ c6 ∧ c6 ≤ 63) :
    -3839 ≤ tempOf dt c6 ∧ tempOf dt c6 ≤ 5200 := by
  have := tempProd_bounds h h6
  unfold tempOf floorShift
  generalize dt * (c6 + 50) = q at *
  omega

/-- `(C4 - 512) * DT`. -/
theorem offProd_bounds {dt c4 : Int} (h : -36600 ≤ dt ∧ dt ≤ 45311) (h4 : 0 ≤ c4 ∧ c4 ≤ 1023) :
    -23199232 ≤ (c4 - 512) * dt ∧ (c4 - 512) * dt ≤ 23153921 := by
  obtain ⟨h1, h2⟩ := h
  obtain ⟨h3, h4⟩ := h4
  constructor <;> nlinarith [mul_nonneg (sub_nonneg.2 h1) (sub_nonneg.2 h3), mul_nonneg (sub_nonneg.2 h2)
    (sub_nonneg.2 h3), mul_nonneg (sub_nonneg.2 h1) (sub_nonneg.2 h4), mul_nonneg (sub_nonneg.2 h2) (sub_nonneg.2 h4)]

theorem offOf_bounds {dt c2 c4 : Int} (h : -36600 ≤ dt ∧ dt ≤ 45311) (h2 : 0 ≤ c2 ∧ c2 ≤ 4095)
    (h4 : 0 ≤ c4 ∧ c4 ≤ 1023) : -5664 ≤ offOf c2 c4 dt ∧ offOf c2 c4 dt ≤ 22032 := by
  have := offProd_bounds h h4
  unfold offOf floorShift
  generalize (c4 - 512) * dt = q at *
  omega

/-- `C3 * DT`. -/
theorem sensProd_bounds {dt c3 : Int} (h : -36600 ≤ dt ∧ dt ≤ 45311) (h3 : 0 ≤ c3 ∧ c3 ≤ 1023) :
    -37441800 ≤ c3 * dt ∧ c3 * dt ≤ 46353153 := by
  have := mul_bounds (b := c3) (n := 1023) h.1 h.2 (by omega) (by omega) (by omega) (by omega)
  rw [mul_comm]
  omega

theorem sensOf_bounds {dt c1 c3 : Int} (h : -36600 ≤ dt ∧ dt ≤ 45311) (h1 : 0 ≤ c1 ∧ c1 ≤ 32767)
    (h3 : 0 ≤ c3 ∧ c3 ≤ 1023) : -11989 ≤ sensOf c1 c3 dt ∧ sensOf c1 c3 dt ≤ 102609 := by
  have := sensProd_bounds h h3
  unfold sensOf floorShift
  generalize c3 * dt = q at *
  omega

/-- `SENS * (D1 - 7168)`. -/
theorem xProd_bounds {sens d1 : Int} (h : -11989 ≤ sens ∧ sens ≤ 102609) (h1 : 0 ≤ d1 ∧ d1 ≤ 65535) :
    -735501312 ≤ sens * (d1 - 7168) ∧ sens * (d1 - 7168) ≤ 5988979503 := by
  obtain ⟨h2, h3⟩ := h
  obtain ⟨h4, h5⟩ := h1
  constructor <;> nlinarith [mul_nonneg (sub_nonneg.2 h2) (sub_nonneg.2 h4), mul_nonneg (sub_nonneg.2 h3)
    (sub_nonneg.2 h4), mul_nonneg (sub_nonneg.2 h2) (sub_nonneg.2 h5), mul_nonneg (sub_nonneg.2 h3) (sub_nonneg.2 h5)]

theorem xOf_bounds {sens d1 off : Int} (h : -11989 ≤ sens ∧ sens ≤ 102609) (h1 : 0 ≤ d1 ∧ d1 ≤ 65535)
    (ho : -5664 ≤ off ∧ off ≤ 22032) : -66924 ≤ xOf sens d1 off ∧ xOf sens d1 off ≤ 371202 := by
  have := xProd_bounds h h1
  unfold xOf floorShift
  generalize sens * (d1 - 7168) = q at *
  omega

theorem pOf_bounds {x : Int} (h : -66924 ≤ x ∧ x ≤ 371202) : -18414 ≤ pOf x ∧ pOf x ≤ 118500 := by
  unfold pOf floorShift
  omega

/-- Step 8's first product, in every branch. -/
theorem t2Prod_bounds {b : Branch} {c6 temp : Int} (h6 : 0 ≤ c6 ∧ c6 ≤ 63) (ht : -3839 ≤ temp ∧ temp ≤ 5200)
    (hb : b = branchOf temp) : 0 ≤ t2Prod b c6 temp ∧ t2Prod b c6 temp ≤ 15612039597 := by
  have square : ∀ n l : Int, 0 ≤ l → -l ≤ n → n ≤ l → 0 ≤ n * n ∧ n * n ≤ l * l := fun n l _ h1 h2 =>
    ⟨mul_self_nonneg n, by nlinarith⟩
  unfold branchOf at hb
  split at hb
  case isTrue hl =>
    subst hb
    have hs := square (200 - temp) 4039 (by omega) (by omega) (by omega)
    have := mul_bounds (a := 11 * (c6 + 24)) (l := 0) (u := 957) (n := 16313521) (by omega) (by omega) hs.1
      (by omega) (by omega) (by omega)
    simp only [t2Prod]
    omega
  split at hb
  case isTrue hh =>
    subst hb
    have hs := square (450 - temp) 4750 (by omega) (by omega) (by omega)
    have := mul_bounds (a := 3 * (c6 + 24)) (l := 0) (u := 261) (n := 22562500) (by omega) (by omega) hs.1
      (by omega) (by omega) (by omega)
    simp only [t2Prod]
    omega
  case isFalse =>
    subst hb
    simp [t2Prod]

theorem t2Of_bounds {b : Branch} {c6 temp : Int} (h6 : 0 ≤ c6 ∧ c6 ≤ 63) (ht : -3839 ≤ temp ∧ temp ≤ 5200)
    (hb : b = branchOf temp) : 0 ≤ t2Of b c6 temp ∧ t2Of b c6 temp ≤ 14888 := by
  have := t2Prod_bounds h6 ht hb
  unfold t2Of floorShift
  omega

/-- Step 8's second product, in every branch. -/
theorem p2Prod_bounds {b : Branch} {t2 p : Int} (ht : 0 ≤ t2 ∧ t2 ≤ 14888) (hp : -18414 ≤ p ∧ p ≤ 118500) :
    -978766896 ≤ p2Prod b t2 p ∧ p2Prod b t2 p ≤ 5136360000 := by
  cases b with
  | none => simp [p2Prod]
  | low =>
    have := mul_bounds (a := p - 3500) (l := -21914) (u := 115000) (b := 3 * t2) (n := 44664) (by omega) (by omega)
      (by omega) (by omega) (by omega) (by omega)
    simp only [p2Prod]
    rw [mul_comm]
    omega
  | high =>
    have := mul_bounds (a := p - 10000) (l := -28414) (u := 108500) (b := t2) (n := 14888) (by omega) (by omega)
      (by omega) (by omega) (by omega) (by omega)
    simp only [p2Prod]
    rw [mul_comm]
    omega

theorem p2Of_bounds {b : Branch} {t2 p : Int} (ht : 0 ≤ t2 ∧ t2 ≤ 14888) (hp : -18414 ≤ p ∧ p ≤ 118500) :
    -119479 ≤ p2Of b t2 p ∧ p2Of b t2 p ≤ 627000 := by
  have h := p2Prod_bounds (b := b) ht hp
  cases b <;> simp only [p2Of, floorShift] <;> omega

/-- The ranges of steps 1 to 7. -/
structure FirstOrder.InRange (f : FirstOrder) : Prop where
  ut1 : 20224 ≤ f.ut1 ∧ f.ut1 ≤ 36600
  dt : -36600 ≤ f.dt ∧ f.dt ≤ 45311
  temp : -3839 ≤ f.temp ∧ f.temp ≤ 5200
  off : -5664 ≤ f.off ∧ f.off ≤ 22032
  sens : -11989 ≤ f.sens ∧ f.sens ≤ 102609
  x : -66924 ≤ f.x ∧ f.x ≤ 371202
  p : -18414 ≤ f.p ∧ f.p ≤ 118500

theorem firstOrder_inRange {i : CompIn} (h : i.InRange) : (firstOrder i).InRange := by
  have hu := ut1Of_bounds h.c5
  have hd := dtOf_bounds h.d2 hu
  have ho := offOf_bounds hd h.c2 h.c4
  have hs := sensOf_bounds hd h.c1 h.c3
  have hx := xOf_bounds hs h.d1 ho
  exact ⟨hu, hd, tempOf_bounds hd h.c6, ho, hs, hx, pOf_bounds hx⟩

/-- Every value of the chain lies within 35 bits. -/
theorem chainValues_bounds {i : CompIn} (h : i.InRange) {v : Int}
    (hv : v ∈ chainValues (branchOf (firstOrder i).temp) i) : -(2 ^ 34) ≤ v ∧ v < 2 ^ 34 := by
  have hf := firstOrder_inRange h
  have h1 := tempProd_bounds hf.dt h.c6
  have h2 := offProd_bounds hf.dt h.c4
  have h3 := sensProd_bounds hf.dt h.c3
  have h4 := xProd_bounds hf.sens h.d1
  have h5 := t2Prod_bounds h.c6 hf.temp rfl
  have h6 := t2Of_bounds h.c6 hf.temp rfl
  have h7 := p2Prod_bounds (b := branchOf (firstOrder i).temp) h6 hf.p
  have h8 := p2Of_bounds (b := branchOf (firstOrder i).temp) h6 hf.p
  obtain ⟨hu, hd, ht, ho, hs, hx, hp⟩ := hf
  simp only [chainValues, secondOrder, List.mem_cons, List.not_mem_nil, or_false] at hv
  rcases hv with rfl | rfl | rfl | rfl | rfl | rfl | rfl | rfl | rfl | rfl | rfl | rfl | rfl | rfl | rfl | rfl | rfl |
    rfl <;> omega

/-- At the block's accumulator width nothing overflows. -/
theorem overflows_accWidth {i : CompIn} (h : i.InRange) :
    overflows Config.accWidth (branchOf (firstOrder i).temp) i = false := by
  rw [overflows, List.any_eq_false]
  intro v hv
  have := chainValues_bounds h hv
  have hr : inRange Config.accWidth v = true :=
    decide_eq_true (by simp only [Config.accWidth]; constructor <;> omega)
  simp [hr]

/-- A 64-bit register holds a value of the chain exactly. -/
theorem toInt_ofInt_acc {v : Int} (h : -(2 ^ 34) ≤ v ∧ v < 2 ^ 34) : (BitVec.ofInt 64 v).toInt = v := by
  rw [BitVec.toInt_ofInt, Int.bmod_eq_of_le] <;> omega

/-- COMPUTE on registers that hold values. -/
theorem execCompute_eq {s : State} {c : CoefVals} {m : MeasVals} (hc : s.coefs.vals = some c)
    (hm : s.raw.meas = some m) :
    execCompute s = .next ((s.elapse.setPipe (pipeOf (branchOf (firstOrder (compIn c m)).temp).code
      (firstOrder (compIn c m)) (secondOrder (branchOf (firstOrder (compIn c m)).temp) (compIn c m).c6
        (firstOrder (compIn c m))))).setSeq 8) := by
  simp [execCompute, hc, hm, overflows_accWidth (compIn_inRange c m)]

theorem execCompute_cases {s t : State} (h : execCompute s = .next t) :
    ∃ c m, s.coefs.vals = some c ∧ s.raw.meas = some m ∧
      t = (s.elapse.setPipe (pipeOf (branchOf (firstOrder (compIn c m)).temp).code
        (firstOrder (compIn c m)) (secondOrder (branchOf (firstOrder (compIn c m)).temp) (compIn c m).c6
          (firstOrder (compIn c m))))).setSeq 8 := by
  cases hc : s.coefs.vals with
  | none => simp [execCompute, hc] at h
  | some c =>
    cases hm : s.raw.meas with
    | none => simp [execCompute, hc, hm] at h
    | some m =>
      rw [execCompute_eq hc hm] at h
      cases h
      exact ⟨c, m, rfl, rfl, rfl⟩

end Sys2Proof.Machine
end

