-- ==== Sys2Proof/Laws/Decode.lean ====
section
/-! SUPPORT. Bytes and words as numbers: the byte order of 20_memory.md R63 and R64. -/

namespace Sys2Proof

theorem append_byte_toNat {n : Nat} (a : BitVec n) (b : Byte) : (a ++ b).toNat = a.toNat * 256 + b.toNat := by
  rw [BitVec.toNat_append, ← Nat.shiftLeft_add_eq_or_of_lt b.isLt, Nat.shiftLeft_eq]

theorem wordOfBytes_toNat (hi lo : Byte) : (wordOfBytes hi lo).toNat = hi.toNat * 256 + lo.toNat :=
  append_byte_toNat hi lo

theorem hiByte_toNat (w : Word16) : (hiByte w).toNat = w.toNat / 256 := by
  have := w.isLt
  simp only [hiByte, BitVec.extractLsb'_toNat, Nat.shiftRight_eq_div_pow]
  omega

theorem loByte_toNat (w : Word16) : (loByte w).toNat = w.toNat % 256 := by
  simp [loByte, BitVec.extractLsb'_toNat]

/-- A word is its two bytes, the high one first. -/
@[simp] theorem wordOfBytes_hi_lo (w : Word16) : wordOfBytes (hiByte w) (loByte w) = w := by
  apply BitVec.eq_of_toNat_eq
  rw [wordOfBytes_toNat, hiByte_toNat, loByte_toNat]
  omega

theorem wordOfBytes_inj {a b x y : Byte} : wordOfBytes a b = wordOfBytes x y ↔ a = x ∧ b = y := by
  constructor
  · intro h
    have h := congrArg BitVec.toNat h
    rw [wordOfBytes_toNat, wordOfBytes_toNat] at h
    have := b.isLt
    have := y.isLt
    constructor <;> apply BitVec.eq_of_toNat_eq <;> omega
  · rintro ⟨rfl, rfl⟩
    rfl

/-- Three bytes are a 24-bit value exactly if they are its bytes, the high one first. -/
theorem bytes_eq_pat {a b c : Byte} {p : BitVec 24} :
    a ++ b ++ c = p ↔ a = (patBytes p).1 ∧ b = (patBytes p).2.1 ∧ c = (patBytes p).2.2 := by
  have ha := a.isLt
  have hb := b.isLt
  have hc := c.isLt
  have hp := p.isLt
  have hn : (a ++ b ++ c).toNat = (a.toNat * 256 + b.toNat) * 256 + c.toNat := by
    rw [append_byte_toNat, append_byte_toNat]
  simp only [patBytes, ← BitVec.toNat_inj, BitVec.extractLsb'_toNat, Nat.shiftRight_eq_div_pow]
  have hn' : BitVec.toNat (a ++ b ++ c : BitVec 24) = (a.toNat * 256 + b.toNat) * 256 + c.toNat := hn
  rw [hn']
  omega

end Sys2Proof
end

