-- ==== Sys2Proof/Laws/Decoder.lean ====
section
/-! SUPPORT. The six coefficients as numbers (41_decoder.md R141 to R146). -/

namespace Sys2Proof.Machine

/-- A mask of `k` ones is a remainder. -/
theorem and_ones (a k : Nat) : a &&& (2 ^ k - 1) = a % 2 ^ k := Nat.and_two_pow_sub_one_eq_mod a k

/-- Bit fields that do not meet are added. -/
theorem shiftLeft_or {a b k : Nat} (h : b < 2 ^ k) : a <<< k ||| b = a * 2 ^ k + b := by
  rw [← Nat.shiftLeft_add_eq_or_of_lt h, Nat.shiftLeft_eq]

theorem c1Of_toNat (w1 : Word16) : (c1Of w1).toNat = w1.toNat / 2 := by
  have := w1.isLt
  simp only [c1Of, BitVec.toNat_setWidth, BitVec.toNat_ushiftRight, Nat.shiftRight_eq_div_pow]
  omega

theorem c2Of_toNat (w3 w4 : Word16) : (c2Of w3 w4).toNat = w3.toNat % 64 * 64 + w4.toNat % 64 := by
  have e : BitVec.toNat (0x3F : Word16) = 2 ^ 6 - 1 := rfl
  simp only [c2Of, BitVec.toNat_setWidth, BitVec.toNat_or, BitVec.toNat_shiftLeft, BitVec.toNat_and, e, and_ones]
  rw [Nat.mod_eq_of_lt (a := (w3.toNat % 2 ^ 6) <<< 6) (by rw [Nat.shiftLeft_eq]; omega),
    shiftLeft_or (Nat.mod_lt _ (by decide))]
  omega

theorem c3Of_toNat (w4 : Word16) : (c3Of w4).toNat = w4.toNat / 64 := by
  have := w4.isLt
  simp only [c3Of, BitVec.toNat_setWidth, BitVec.toNat_ushiftRight, Nat.shiftRight_eq_div_pow]
  omega

theorem c4Of_toNat (w3 : Word16) : (c4Of w3).toNat = w3.toNat / 64 := by
  have := w3.isLt
  simp only [c4Of, BitVec.toNat_setWidth, BitVec.toNat_ushiftRight, Nat.shiftRight_eq_div_pow]
  omega

theorem c5Of_toNat (w1 w2 : Word16) : (c5Of w1 w2).toNat = w1.toNat % 2 * 1024 + w2.toNat / 64 := by
  have e : BitVec.toNat (0x01 : Word16) = 2 ^ 1 - 1 := rfl
  have h2 := w2.isLt
  simp only [c5Of, BitVec.toNat_setWidth, BitVec.toNat_or, BitVec.toNat_shiftLeft, BitVec.toNat_and,
    BitVec.toNat_ushiftRight, Nat.shiftRight_eq_div_pow, e, and_ones]
  rw [Nat.mod_eq_of_lt (a := (w1.toNat % 2 ^ 1) <<< 10) (by rw [Nat.shiftLeft_eq]; omega),
    shiftLeft_or (by omega)]
  omega

theorem c6Of_toNat (w2 : Word16) : (c6Of w2).toNat = w2.toNat % 64 := by
  have e : BitVec.toNat (0x3F : Word16) = 2 ^ 6 - 1 := rfl
  simp only [c6Of, BitVec.toNat_setWidth, BitVec.toNat_and, e, and_ones]
  omega

end Sys2Proof.Machine
end

