-- ==== Sys2Proof/Laws/PerInstr.lean ====
section
/-! SUPPORT. Statements about every instruction as syntax, one lemma per constructor. -/

namespace Sys2Proof.Laws

/-- Decoding an instruction's encoding, as an item and as bytes, gives the instruction back. -/
def RoundTrip.Statement (i : Instr) : Prop := decode (encode i) = .ok i ∧ decodeBytes (encodeBytes i) = .ok i

theorem RoundTrip.reset24 : RoundTrip.Statement .reset24 := ⟨rfl, rfl⟩
theorem RoundTrip.rdcal1 : RoundTrip.Statement .rdcal1 := ⟨rfl, rfl⟩
theorem RoundTrip.rdcal2 : RoundTrip.Statement .rdcal2 := ⟨rfl, rfl⟩
theorem RoundTrip.rdcal3 : RoundTrip.Statement .rdcal3 := ⟨rfl, rfl⟩
theorem RoundTrip.rdcal4 : RoundTrip.Statement .rdcal4 := ⟨rfl, rfl⟩
theorem RoundTrip.convd1 : RoundTrip.Statement .convd1 := ⟨rfl, rfl⟩
theorem RoundTrip.convd2 : RoundTrip.Statement .convd2 := ⟨rfl, rfl⟩
theorem RoundTrip.decode : RoundTrip.Statement .decode := ⟨rfl, rfl⟩
theorem RoundTrip.compute : RoundTrip.Statement .compute := ⟨rfl, rfl⟩
theorem RoundTrip.report : RoundTrip.Statement .report := ⟨rfl, rfl⟩
theorem RoundTrip.wait : RoundTrip.Statement .wait := ⟨rfl, rfl⟩

end Sys2Proof.Laws
end

