-- ==== Sys2Proof/Laws/Step.lean ====
section
/-! SUPPORT. What one clock of the block can do, said once. -/

namespace Sys2Proof.Machine

open Sys2Proof.Safety

variable {s t : State}

/-- The statement `SEQ` selects, read off `SEQ`. -/
theorem microprogram_cases {q : BitVec 4} {st : Stmt} (h : microprogram q = some st) :
    (q = 0 ∧ st = .xfer cmdRdcal1 tCalMs .w1) ∨ (q = 1 ∧ st = .xfer cmdRdcal2 tCalMs .w2) ∨
      (q = 2 ∧ st = .xfer cmdRdcal3 tCalMs .w3) ∨ (q = 3 ∧ st = .xfer cmdRdcal4 tCalMs .w4) ∨
      (q = 4 ∧ st = .decode) ∨ (q = 5 ∧ st = .xfer cmdConvd1 tConvMs .d1) ∨
      (q = 6 ∧ st = .xfer cmdConvd2 tConvMs .d2) ∨ (q = 7 ∧ st = .compute) ∨ (q = 8 ∧ st = .report) ∨
      (q = 9 ∧ st = .wait tCycleMs) := by
  have key : ∀ q : BitVec 4, q = 0 ∨ q = 1 ∨ q = 2 ∨ q = 3 ∨ q = 4 ∨ q = 5 ∨ q = 6 ∨ q = 7 ∨ q = 8 ∨ q = 9 ∨
      microprogram q = none := by decide
  rcases key q with rfl | rfl | rfl | rfl | rfl | rfl | rfl | rfl | rfl | rfl | hn
  all_goals first
    | (rw [hn] at h; cases h)
    | (cases h; simp)

/-- The transactions of the microprogram. -/
inductive XferAt : BitVec 4 → Word16 → Millis → Dest → Prop where
  | w1 : XferAt 0 cmdRdcal1 tCalMs .w1
  | w2 : XferAt 1 cmdRdcal2 tCalMs .w2
  | w3 : XferAt 2 cmdRdcal3 tCalMs .w3
  | w4 : XferAt 3 cmdRdcal4 tCalMs .w4
  | d1 : XferAt 5 cmdConvd1 tConvMs .d1
  | d2 : XferAt 6 cmdConvd2 tConvMs .d2

theorem XferAt.microprogram {q : BitVec 4} {cmd : Word16} {delay : Millis} {dest : Dest}
    (h : XferAt q cmd delay dest) : microprogram q = some (.xfer cmd delay dest) := by
  cases h <;> rfl

theorem XferAt.isCommand {q : BitVec 4} {cmd : Word16} {delay : Millis} {dest : Dest}
    (h : XferAt q cmd delay dest) : isCommand cmd = true := by
  cases h <;> rfl

theorem XferAt.xferStep {q : BitVec 4} {cmd : Word16} {delay : Millis} {dest : Dest}
    (h : XferAt q cmd delay dest) : xferStep q = true := by
  cases h <;> rfl

theorem xferAt_of_xferStep {q : BitVec 4} (h : xferStep q = true) : ∃ cmd delay dest, XferAt q cmd delay dest := by
  simp only [Safety.xferStep, Bool.or_eq_true, decide_eq_true_eq] at h
  rcases h with ((((rfl | rfl) | rfl) | rfl) | rfl) | rfl
  exacts [⟨_, _, _, .w1⟩, ⟨_, _, _, .w2⟩, ⟨_, _, _, .w3⟩, ⟨_, _, _, .w4⟩, ⟨_, _, _, .d1⟩, ⟨_, _, _, .d2⟩]

/-- In a transaction step a clock without reset is a clock of that transaction, in every phase. -/
theorem step_xfer {cmd : Word16} {delay : Millis} {dest : Dest} (hr : s.input.rst = false)
    (hx : XferAt s.seq cmd delay dest) : step s = transaction cmd delay dest s := by
  have hf : fetchItem s = if s.ph.toNat < 3 then some (.f24 resetPattern) else some (.f16c cmd) := by
    simp only [fetchItem, hx.microprogram]
  by_cases hp : s.ph.toNat < 3
  · have hfetch : fetch s = .ok .reset24 := by
      simp only [fetch, hf, hp, if_true]; rfl
    rw [transaction_lt3 hx.isCommand hp, step, hr, hfetch]
    rfl
  · rw [step, hr]
    simp only [fetch, hf, hp, if_false]
    generalize hq : s.seq = q at hx
    cases hx <;> rfl

/-- In the other steps a clock without reset runs the micro-operation. -/
theorem step_decode (hr : s.input.rst = false) (hq : s.seq = 4) : step s = execDecode s := by
  simp only [step, hr, fetch, fetchItem, hq]; rfl

theorem step_compute (hr : s.input.rst = false) (hq : s.seq = 7) : step s = execCompute s := by
  simp only [step, hr, fetch, fetchItem, hq]; rfl

theorem step_report (hr : s.input.rst = false) (hq : s.seq = 8) : step s = execReport s := by
  simp only [step, hr, fetch, fetchItem, hq]; rfl

theorem step_wait (hr : s.input.rst = false) (hq : s.seq = 9) : step s = waitPhase tCycleMs s := by
  simp only [step, hr, fetch, fetchItem, hq]; rfl

theorem step_rst (hr : s.input.rst = true) : step s = .next (blockReset s) := by
  simp [step, hr]

theorem step_badSeq (hr : s.input.rst = false) (hq : microprogram s.seq = none) : step s = .fault .badSeq := by
  simp [step, hr, fetch, fetchItem, hq]

/-- Everything a clock can do when it answers a next state. -/
inductive ClockNext (s : State) : State → Prop where
  | reset : s.input.rst = true → ClockNext s (blockReset s)
  | holdXfer : s.input.rst = false → xferStep s.seq = true →
      (s.ph = 5 ∧ s.timer ≠ 0 ∨ s.ph ≠ 5 ∧ s.input.answer = none) → ClockNext s s.elapse
  | holdWait : s.input.rst = false → s.seq = 9 → s.ph ≠ 0 → (s.ph = 1 → s.timer ≠ 0) → ClockNext s s.elapse
  | xfer {cmd : Word16} {delay : Millis} {dest : Dest} {t : State} : s.input.rst = false →
      XferAt s.seq cmd delay dest → TransactionNext cmd delay dest s t → ClockNext s t
  | decode {w : WordVals} : s.input.rst = false → s.seq = 4 → s.raw.words = some w →
      ClockNext s ((s.elapse.setCoefs (decodeWords w).regs).setSeq 5)
  | compute {c : CoefVals} {m : MeasVals} : s.input.rst = false → s.seq = 7 → s.coefs.vals = some c →
      s.raw.meas = some m →
      ClockNext s ((s.elapse.setPipe (pipeOf (branchOf (firstOrder (compIn c m)).temp).code
        (firstOrder (compIn c m)) (secondOrder (branchOf (firstOrder (compIn c m)).temp) (compIn c m).c6
          (firstOrder (compIn c m))))).setSeq 8)
  | report {w : WordVals} {m : MeasVals} {f : FinVals} : s.input.rst = false → s.seq = 8 → s.raw.words = some w →
      s.raw.meas = some m → s.pipe.fin = some f →
      ClockNext s (((s.elapse.setOutputs
        { tempOut := some (toOut f.temp), pOut := some (toOut f.pres), valid := true }).emit
        (reportOf w m f)).setSeq 9)
  | waitLoad : s.input.rst = false → s.seq = 9 → s.ph = 0 → ClockNext s ((s.elapse.setTimer tCycleMs).setPh 1)
  | waitEnd : s.input.rst = false → s.seq = 9 → s.ph = 1 → s.timer = 0 →
      ClockNext s ((s.elapse.setPh 0).setSeq 0)

/-- A value of `SEQ` selects a transaction, one of the four micro-operations, or nothing. -/
theorem seq_cases (q : BitVec 4) :
    xferStep q = true ∨ q = 4 ∨ q = 7 ∨ q = 8 ∨ q = 9 ∨ microprogram q = none := by
  revert q; decide

theorem step_next_cases (h : step s = .next t) : ClockNext s t := by
  cases hr : s.input.rst with
  | true => rw [step_rst hr] at h; cases h; exact .reset hr
  | false =>
    rcases seq_cases s.seq with hx | h4 | h7 | h8 | h9 | hn
    · obtain ⟨cmd, delay, dest, hc⟩ := xferAt_of_xferStep hx
      rw [step_xfer hr hc] at h
      rcases transaction_cases h with ⟨rfl, hh⟩ | hn
      · exact .holdXfer hr hx hh
      · exact .xfer hr hc hn
    · rw [step_decode hr h4] at h
      obtain ⟨w, hw, rfl⟩ := execDecode_cases h
      exact .decode hr h4 hw
    · rw [step_compute hr h7] at h
      obtain ⟨c, m, hc, hm, rfl⟩ := execCompute_cases h
      exact .compute hr h7 hc hm
    · rw [step_report hr h8] at h
      obtain ⟨w, m, f, hw, hm, hf, rfl⟩ := execReport_cases h
      exact .report hr h8 hw hm hf
    · rw [step_wait hr h9] at h
      rcases waitPhase_cases h with ⟨rfl, h0, h1⟩ | ⟨h0, rfl⟩ | ⟨h1, hz, rfl⟩
      · exact .holdWait hr h9 h0 h1
      · exact .waitLoad hr h9 h0
      · exact .waitEnd hr h9 h1 hz
    · rw [step_badSeq hr hn] at h; cases h

/-! ### Runs of several clocks -/

/-- A run's first clock. -/
theorem run_succ {k : Nat} {o : Answer} (h : step s = .next t) (hk : Host.Core.run core k t = o) :
    Host.Core.run core (k + 1) s = o := by
  have hs : core.step s = .next t := h
  simp only [Host.Core.run, hs]
  exact hk

/-- A run in two parts. -/
theorem run_add {j k : Nat} {o : Answer} (hj : Host.Core.run core j s = .next t)
    (hk : Host.Core.run core k t = o) : Host.Core.run core (j + k) s = o := by
  induction j generalizing s with
  | zero =>
    cases hj
    simpa using hk
  | succ n ih =>
    cases hs : step s with
    | next s' =>
      have hc : core.step s = .next s' := hs
      simp only [Host.Core.run, hc] at hj
      rw [Nat.succ_add]
      exact run_succ hs (ih hj)
    | fault r =>
      have hc : core.step s = .fault r := hs
      simp [Host.Core.run, hc] at hj
    | refused r =>
      have hc : core.step s = .refused r := hs
      simp [Host.Core.run, hc] at hj

end Sys2Proof.Machine
end

