-- ==== Sys2Proof/Tests/Slice0.lean ====
section
/-! SUPPORT. Tests. Expected values are those of 95_test_vectors.md and 30_encoding.md R81, named in each docstring; the
witnesses at the end meet the hypotheses of the statements. -/

namespace Sys2Proof.Tests

open Sys2Proof Sys2Proof.Machine Sys2Proof.Safety

/-! ### Small states -/

/-- The state a clock gives, if it gives one. -/
def nextOf : Answer → Option State
  | .next s => some s
  | .fault _ => none
  | .refused _ => none

/-- The fault a clock raises, if it raises one. -/
def faultOf : Answer → Option Fault
  | .next _ => none
  | .fault f => some f
  | .refused _ => none

/-- A clock without reset or tick, with an answer or none. -/
def inp (a : Option Byte) : Input := { rst := false, tick := false, answer := a }

/-- The reset state at another place, with the coming clocks given. -/
def place (q : BitVec 4) (p : BitVec 3) (is : List Input) : State :=
  { State.reset with seq := q, ph := p, inputs := is }

/-- Calibration set A of 95_test_vectors.md. -/
def setA : WordVals := ⟨0x9C40, 0xFA32, 0x9617, 0xAF1C⟩

/-- A state that holds these words, their coefficients and these measurements, in a quiet clock. -/
def holding (q : BitVec 4) (w : WordVals) (m : MeasVals) : State :=
  { place q 0 [inp none] with
    raw := { w1 := some w.w1, w2 := some w.w2, w3 := some w.w3, w4 := some w.w4, d1 := some m.d1, d2 := some m.d2 }
    coefs := (decodeWords w).regs
    linkMode := .resp }

/-- The state after COMPUTE on these words and measurements. -/
def computed (w : WordVals) (m : MeasVals) : State := (nextOf (execCompute (holding 7 w m))).getD State.reset

/-- `computed` in a quiet clock. -/
def reporting (w : WordVals) (m : MeasVals) : State := { computed w m with inputs := [inp none] }

/-- One pipeline register after COMPUTE, as an integer. -/
def after (w : WordVals) (m : MeasVals) (f : Pipe → Option Acc) : Option Int :=
  (f (computed w m).pipe).map BitVec.toInt

/-! ### Well-formedness and decoding -/

/-- One ill-formed term for the one check there is: 0x1D70 is no command (V-Q5). -/
theorem test_wf_refuses_unknown_command : Stmt.wf (.xfer 0x1D70 0 .w1) = false := by decide

theorem test_wf_accepts_microprogram :
    (List.range 10).all (fun k => (microprogram (BitVec.ofNat 4 k)).any Stmt.wf) = true := by decide

theorem test_wf_instr : Instr.reset24.wf = true ∧ Instr.convd2.wf = true ∧ Instr.wait.wf = true := by decide

/-- R81, row RESET24: 0001 0101 0101 0101 0100 0000. -/
theorem test_decode_reset24 : decode (.f24 0b000101010101010101000000#24) = .ok .reset24 := by decide

/-- R81: the six commands, bit by bit. -/
theorem test_decode_rdcal1 : decode (.f16c 0b0001110101010000#16) = .ok .rdcal1 := by decide
theorem test_decode_rdcal2 : decode (.f16c 0b0001110101100000#16) = .ok .rdcal2 := by decide
theorem test_decode_rdcal3 : decode (.f16c 0b0001110110010000#16) = .ok .rdcal3 := by decide
theorem test_decode_rdcal4 : decode (.f16c 0b0001110110100000#16) = .ok .rdcal4 := by decide
theorem test_decode_convd1 : decode (.f16c 0b0000111101000000#16) = .ok .convd1 := by decide
theorem test_decode_convd2 : decode (.f16c 0b0000111100100000#16) = .ok .convd2 := by decide

/-- R88, R210: the values of `SEQ` that select a micro-operation. -/
theorem test_decode_decode : decode (.seq 0b0100#4) = .ok .decode := by decide
theorem test_decode_compute : decode (.seq 0b0111#4) = .ok .compute := by decide
theorem test_decode_report : decode (.seq 0b1000#4) = .ok .report := by decide
theorem test_decode_wait : decode (.seq 0b1001#4) = .ok .wait := by decide

/-- R83, R85: neighbours of the constants are refused by name. -/
theorem test_decode_rejects :
    decode (.f16c 0x1D70) = .error .notCommand ∧ decode (.f16c 0x1D51) = .error .notCommand ∧
    decode (.f24 0x155541) = .error .notResetPattern ∧ decode (.seq 12) = .error .notMicroOp ∧
    decodeBytes [] = .error .badLength := by decide

/-- The words of spec/opcode_table.json in its own numbering, with the `SEQ` rows in both readings (log 12). -/
theorem test_table_words :
    decodeTableWord 24 0x155540 = some .reset24 ∧ decodeTableWord 16 0x0F20 = some .convd2 ∧
    decodeTableWord 8 0x4 = some .decode ∧ decodeTableWord 16 (0x8 + 2 ^ 8) = some .report ∧
    decodeTableWord 16 0x1D70 = none := by decide

/-- The very next step after `withFetchWord` runs the instruction: 15 goes out. -/
theorem test_fetch_word_runs :
    (nextOf (step (State.reset.withFetchWord 24 0x155540))).map State.events =
      some [.exchange .cmd 0x15 0x00] := by decide

/-! ### Transactions (95_test_vectors.md §4) -/

/-- V-T1, first clock: 15 in `MODE_CMD`. -/
theorem test_reset24_first :
    (nextOf (step (place 0 0 [inp (some 0xAA)]))).map (fun t => (t.events, t.linkMode, t.ph)) =
      some ([.exchange .cmd 0x15 0xAA], .cmd, 1) := by decide

/-- V-T1, last clock of the pattern: 40. -/
theorem test_reset24_third :
    (nextOf (step (place 3 2 [inp (some 0xAA)]))).map (fun t => (t.events, t.ph)) =
      some ([.exchange .cmd 0x40 0xAA], 3) := by decide

/-- V-T1: the command's high byte first; V-T5: the byte received is kept nowhere. -/
theorem test_rdcal1_high_byte :
    (nextOf (step (place 0 3 [inp (some 0xAA)]))).map (fun t => (t.events, t.rxh, t.raw.w1)) =
      some ([.exchange .cmd 0x1D 0xAA], some 0, some 0) := by decide

/-- V-T5: `W1 = 0x1234` from 12, 34. -/
theorem test_rdcal1_writes :
    (nextOf (step { place 0 7 [inp (some 0x34)] with rxh := some 0x12 })).map
      (fun t => (t.raw.w1, t.seq, t.ph)) = some (some 0x1234, 1, 0) := by decide

/-- R103: no wait after a calibration command. -/
theorem test_rdcal2_skips_wait :
    (nextOf (step (place 1 4 [inp (some 0)]))).map (fun t => (t.events, t.timer, t.ph)) =
      some ([.exchange .cmd 0x60 0], 0, 6) := by decide

/-- V-T6: the mode is written before the exchange. -/
theorem test_rdcal3_switches_mode :
    (nextOf (step (place 2 6 [inp (some 0x96)]))).map (fun t => (t.events, t.linkMode, t.rxh, t.ph)) =
      some ([.exchange .resp 0x00 0x96], .resp, some 0x96, 7) := by decide

/-- V-T4: `W4 = 0x0001`, the first byte received being the high one. -/
theorem test_rdcal4_byte_order :
    (nextOf (step { place 3 7 [inp (some 0x01)] with rxh := some 0x00 })).map
      (fun t => (t.raw.w4, t.seq)) = some (some 0x0001, 4) := by decide

/-- V-T2 and V-W2: `TIMER = 35` at the end of phase 4, a tick in that clock being absorbed. -/
theorem test_convd1_loads_timer :
    (nextOf (step (place 5 4 [⟨false, true, some 0⟩]))).map (fun t => (t.events, t.timer, t.ph)) =
      some ([.exchange .cmd 0x40 0], 35, 5) := by decide

/-- V-T2: phase 5 holds at `TIMER = 1`, and the tick takes it to 0. -/
theorem test_convd1_holds :
    (nextOf (step { place 5 5 [⟨false, true, some 0xFF⟩] with timer := 1 })).map
      (fun t => (t.events, t.timer, t.ph)) = some ([], 0, 5) := by decide

/-- V-T3: `D2 = 0xFFFF`, no check. -/
theorem test_convd2_any_value :
    (nextOf (step { place 6 7 [inp (some 0xFF)] with rxh := some 0xFF })).map
      (fun t => (t.raw.d2, t.seq)) = some (some 0xFFFF, 7) := by decide

/-- V-W1: a tick at `TIMER = 0` is lost. -/
theorem test_convd2_tick_lost :
    (nextOf (step (place 6 5 [⟨false, true, none⟩]))).map (fun t => (t.timer, t.ph)) = some (0, 6) := by decide

/-- The link's three request ports. -/
def linkPorts (s : State) : Bool × LinkMode × Option Byte := (lkReq s, lkMode s, lkTx s)

/-- The clock that ends the cycle. -/
def waitEnd : State := { place 9 1 [inp none] with linkMode := .resp }

/-- R100, R86: a request shows its exchange, before `LINK_MODE` follows; log 24: with none `lk_mode` is `LINK_MODE`. -/
theorem test_link_ports :
    linkPorts { place 1 0 [inp none] with linkMode := .resp } = (true, .cmd, some 0x15) ∧
    linkPorts waitEnd = (false, .resp, none) := by decide

/-! ### Micro-operations -/

/-- V-D5, V-Q1. -/
theorem test_decode_set_a :
    (nextOf (step { holding 4 setA ⟨0, 0⟩ with coefs := State.reset.coefs })).map
      (fun t => (t.coefs, t.seq, t.events)) =
      some (⟨some 20000, some 1500, some 700, some 600, some 1000, some 50⟩, 5, []) := by decide

/-- V-D7: `W1[0]` alone lands in `C5[10]`. -/
theorem test_decode_low_bit :
    (nextOf (step (holding 4 ⟨0x0001, 0, 0, 0⟩ ⟨0, 0⟩))).map State.coefs =
      some ⟨some 0, some 0, some 0, some 0, some 1024, some 0⟩ := by decide

/-- V-C3: floor, not truncation. -/
theorem test_compute_floor :
    after setA ⟨16000, 28223⟩ Pipe.temp = some 199 ∧ after setA ⟨16000, 28223⟩ Pipe.off = some 5999 ∧
    after setA ⟨16000, 28223⟩ Pipe.sens = some 44575 ∧ (computed setA ⟨16000, 28223⟩).pipe.br = some 0b01 := by
  decide

/-- V-C11: every input at its maximum; V-C7: a negative `P2`, floored. -/
theorem test_compute_extremes :
    after ⟨0xFFFF, 0xFFFF, 0xFFFF, 0xFFFF⟩ ⟨65535, 65535⟩ Pipe.tempFin = some 1238 ∧
    after ⟨0xFFFF, 0xFFFF, 0xFFFF, 0xFFFF⟩ ⟨65535, 65535⟩ Pipe.pFin = some 70628 ∧
    after setA ⟨16000, 36224⟩ Pipe.p2 = some (-8) ∧ (computed setA ⟨16000, 36224⟩).seq = 8 := by decide

/-- V-Q3. -/
theorem test_report_vector :
    (nextOf (step (reporting setA ⟨16000, 29224⟩))).map (fun t => (t.outs, t.seq, t.events)) =
      some (⟨some 297, some 8242, true⟩, 9,
        [.report ⟨0x9C40, 0xFA32, 0x9617, 0xAF1C, 16000, 29224, 297, 8242⟩]) := by decide

/-- V-C10: negative results reach the output registers as the same integers. -/
theorem test_report_negative :
    ((nextOf (step (reporting ⟨0, 0, 0, 0⟩ ⟨0, 0⟩))).map State.outs).map
      (fun o => (o.tempOut.map BitVec.toInt, o.pOut.map BitVec.toInt)) = some (some (-1033), some (-1418)) := by
  decide

/-- V-W3: `TIMER = 5000`, `PH = 1`. -/
theorem test_wait_loads :
    (nextOf (step (place 9 0 [⟨false, true, none⟩]))).map (fun t => (t.timer, t.ph, t.seq)) =
      some (5000, 1, 9) := by decide

/-- V-W3: after the 5000th tick `SEQ = 0`, `PH = 0`. -/
theorem test_wait_ends :
    (nextOf (step (place 9 1 [inp none]))).map (fun t => (t.ph, t.seq)) = some (0, 0) := by decide

/-! ### Stops and reset -/

/-- V-Q4. -/
theorem test_bad_seq : faultOf (step (place 12 0 [inp none])) = some .badSeq := by decide

/-- V-Q5: nothing is sent. -/
theorem test_refused_command : faultOf (transaction 0x1D70 0 .w1 (place 0 0 [inp (some 0)])) = some .refusedCmd := by
  decide

/-- R272: reset in a conversion wait, with events kept. -/
theorem test_reset_in_wait :
    (nextOf (step { place 5 5 [⟨true, true, some 0⟩] with timer := 20, events := [.exchange .cmd 0x40 0] })).map
      (fun t => (t.seq, t.ph, t.timer, t.events)) = some (0, 0, 0, [.exchange .cmd 0x40 0]) := by decide

/-- V-C12: a 32-bit accumulator overflows, the block's does not. -/
theorem test_overflow_witness :
    overflows 32 .high (compIn (decodeWords ⟨0xFFFE, 0, 0x8000, 0xFFC0⟩) ⟨65535, 65535⟩) = true ∧
    overflows 64 .high (compIn (decodeWords ⟨0xFFFE, 0, 0x8000, 0xFFC0⟩) ⟨65535, 65535⟩) = false := by decide

/-- V-S3, V-S8, V-S11: where the correction starts. -/
theorem test_step8_vectors :
    t2Of .low 63 166 = 1 ∧ p2Of .low 1 8000 = 0 ∧ t2Of .high 63 514 = 1 ∧ p2Of .high 1 8000 = -1 ∧
    t2Prod .low 63 (-3839) = 15612039597 := by decide

/-! ### Witnesses: for each statement with hypotheses, a concrete state and operands that meet all of them, one for each
clause where it has several -/

/-- Does this clock answer a next state? -/
def runs (a : Answer) : Bool := (nextOf a).isSome

/-- A state inside CONVD1's transaction, in phase 7, with six exchanges done. -/
def midRead : State :=
  { place 5 7 [inp (some 0x80)] with
    linkMode := .resp
    rxh := some 0x3E
    events := [.exchange .resp 0x00 0x3E, .exchange .cmd 0x40 0, .exchange .cmd 0x0F 0, .exchange .cmd 0x40 0,
      .exchange .cmd 0x55 0, .exchange .cmd 0x15 0] }

/-- `midRead`, all of it as in a run: set A is read and decoded. -/
def midCycle : State := { midRead with raw := (holding 5 setA ⟨0, 0⟩).raw, coefs := (decodeWords setA).regs }

/-- Set A measured, in the clock that reports it. -/
def reportState : State := reporting setA ⟨16000, 29224⟩

theorem test_w_CommandsCompareAllBits :
    (∃ s t : State, s.seq = t.seq ∧ s.ph = t.ph ∧ s ≠ t) ∧ currentCmd (place 6 0 []) = some 0x0F20 :=
  ⟨⟨place 6 5 [], place 6 5 [inp none], by decide⟩, by decide⟩

theorem test_w_OtherValuesAreRefused : ∀ row ∈ commandRows, row.cmd ≠ 0x1D70 := by decide

theorem test_w_MicroprogramSelects :
    (place 0 2 []).seq = 0 ∧ (place 6 3 []).seq = 6 ∧ (place 9 0 []).seq = 9 ∧
    10 ≤ (place 10 0 [inp none]).seq.toNat ∧ (place 10 0 [inp none]).input.rst = false ∧
    10 ≤ (place 15 0 [inp none]).seq.toNat ∧ (place 15 0 [inp none]).input.rst = false := by decide

theorem test_w_StepRunsDecodedInstruction :
    (place 5 3 [inp none]).input.rst = false ∧ fetchItem (place 5 3 [inp none]) = some (.f16c 0x0F40) ∧
    decode (.f16c 0x0F40) = .ok .convd1 := by decide

theorem test_w_Reset24Completes :
    ∀ p ∈ [(0 : BitVec 3), 1, 2], (place 0 p [inp (some 7)]).input.answer = some 7 ∧
      (place 0 p [inp (some 7)]).ph = p := by decide

theorem test_w_TransactionSendsCommand :
    (place 0 2 [inp (some 7)]).input.answer = some 7 ∧ (place 0 2 []).ph.toNat < 3 ∧ (place 0 3 []).ph = 3 ∧
    (place 0 4 []).ph = 4 ∧ (∃ row ∈ commandRows, row.delay = 0) ∧ (∃ row ∈ commandRows, row.delay ≠ 0) := by decide

theorem test_w_ConversionPhaseWaits :
    (place 5 5 []).ph = 5 ∧ (place 5 5 []).timer = 0 ∧ ({ place 5 5 [] with timer := 1 } : State).timer ≠ 0 := by
  decide

theorem test_w_TransactionReadsResponse :
    (place 5 6 [inp (some 7)]).input.answer = some 7 ∧ (place 5 6 []).ph = 6 ∧
    midRead.input.answer = some 0x80 ∧ midRead.ph = 7 ∧ midRead.rxh = some 0x3E := by decide

theorem test_w_ExchangeHoldsUntilAnswered :
    (place 5 6 [inp none]).input.answer = none ∧ (place 5 6 [inp none]).ph ≠ 5 := by decide

theorem test_w_DecodeCompletes : (holding 4 setA ⟨0, 0⟩).raw.words = some setA := by decide

theorem test_w_ComputeCompletes :
    (holding 7 setA ⟨16000, 29224⟩).coefs.vals = some (decodeWords setA) ∧
    (holding 7 setA ⟨16000, 29224⟩).raw.meas = some ⟨16000, 29224⟩ := by decide

theorem test_w_ReportCompletes :
    reportState.raw.words = some setA ∧ reportState.raw.meas = some ⟨16000, 29224⟩ ∧
    reportState.pipe.fin = some ⟨297, 8242⟩ ∧ -(2 ^ 31) ≤ (297 : Acc).toInt ∧ (297 : Acc).toInt < 2 ^ 31 := by decide

/-- The range clauses at their ends: the least and the greatest value of 32 bits. -/
theorem test_w_ReportCompletes_bounds :
    -(2 ^ 31) ≤ (BitVec.ofInt 64 (-(2 ^ 31))).toInt ∧ (BitVec.ofInt 64 (2 ^ 31 - 1)).toInt < 2 ^ 31 := by decide

theorem test_w_WaitCompletes :
    (place 9 0 []).ph = 0 ∧ (place 9 1 []).ph = 1 ∧ (place 9 1 []).timer = 0 ∧
    ({ place 9 1 [] with timer := 1 } : State).timer ≠ 0 := by decide

theorem test_w_UnwrittenReadsStop :
    unwritten.raw.w1 = none ∧ unwritten.raw.w4 = none ∧ unwritten.raw.d1 = none ∧ unwritten.raw.d2 = none ∧
    unwritten.coefs.vals = none ∧ unwritten.pipe.tempFin = none ∧ unwritten.pipe.pFin = none ∧
    ({ midRead with rxh := none } : State).input.answer = some 0x80 ∧ ({ midRead with rxh := none } : State).ph = 7 ∧
    ({ midRead with rxh := none } : State).rxh = none := by decide

theorem test_w_DecoderFormulas : (holding 4 ⟨0xFFFF, 0, 0xFFFF, 0⟩ ⟨0, 0⟩).raw.words = some ⟨0xFFFF, 0, 0xFFFF, 0⟩ := by
  decide

/-- The hypotheses of FirstOrderRegisters, BranchSelection, SecondOrderRegisters, CorrectedRegisters and
BoundariesAreUncorrected: the same two as ComputeCompletes. -/
theorem test_w_ComputeRegisters :
    (holding 7 setA ⟨16000, 28224⟩).coefs.vals = some (decodeWords setA) ∧
    (holding 7 setA ⟨16000, 28224⟩).raw.meas = some ⟨16000, 28224⟩ := by decide

/-- The clauses of the three branches where they meet: V-C2 to V-C5 at 200, 199, 400, 401. -/
theorem test_w_Branches :
    after setA ⟨16000, 28224⟩ Pipe.temp = some 200 ∧ after setA ⟨16000, 28223⟩ Pipe.temp = some 199 ∧
    after setA ⟨16000, 30272⟩ Pipe.temp = some 400 ∧ after setA ⟨16000, 30283⟩ Pipe.temp = some 401 := by decide

/-- The clauses at their ends: `C6` = 0 and 63, `TEMP` = 199, 167, 401, 513; a state inside the band. -/
theorem test_w_CorrectionIsZeroInBand :
    (0 : Int) ≤ 0 ∧ (0 : Int) ≤ 63 ∧ (63 : Int) ≤ 63 ∧ (199 : Int) < 200 ∧ (167 : Int) ≤ 167 ∧ (400 : Int) < 401 ∧
    (513 : Int) ≤ 513 ∧ (⟨28224, 0, 167, 0, 0, 0, 0⟩ : FirstOrder).temp = 167 := by decide

/-- Each sign clause of CorrectionSigns, at its boundary. -/
theorem test_w_CorrectionSigns :
    0 < (secondOrder .low 63 ⟨0, 0, 166, 0, 0, 0, 3500⟩).t2 ∧ 0 < (secondOrder .low 63 ⟨0, 0, 166, 0, 0, 0, 3499⟩).t2 ∧
    0 < (secondOrder .high 63 ⟨0, 0, 514, 0, 0, 0, 10000⟩).t2 ∧
    0 < (secondOrder .high 63 ⟨0, 0, 514, 0, 0, 0, 9999⟩).t2 ∧
    (secondOrder .none 63 ⟨0, 0, 300, 0, 0, 0, 0⟩).t2 = 0 := by decide

/-- `SENS` takes each sign. -/
theorem test_w_PressureIsMonotoneInD1 :
    0 < (firstOrder (compIn (decodeWords setA) ⟨0, 29224⟩)).sens ∧
    (firstOrder (compIn ⟨0, 0, 1023, 0, 2047, 0⟩ ⟨0, 0⟩)).sens < 0 ∧
    (firstOrder (compIn ⟨0, 0, 1023, 0, 547, 0⟩ ⟨0, 0⟩)).sens = 0 ∧
    (0 : Word16).toNat ≤ (0xFFFF : Word16).toNat := by decide

theorem test_w_ThirtyFiveBitsSuffice : 35 ≤ 35 ∧ 35 ≤ Config.accWidth := by decide

theorem test_w_ComputeIsDeterministic :
    (holding 7 setA ⟨16000, 29224⟩).coefs = (holding 8 setA ⟨16000, 29224⟩).coefs ∧
    (holding 7 setA ⟨16000, 29224⟩).raw.d1 = (holding 8 setA ⟨16000, 29224⟩).raw.d1 ∧
    (holding 7 setA ⟨16000, 29224⟩).raw.d2 = (holding 8 setA ⟨16000, 29224⟩).raw.d2 ∧
    runs (exec .compute (holding 7 setA ⟨16000, 29224⟩)) = true ∧
    runs (exec .compute (holding 8 setA ⟨16000, 29224⟩)) = true := by decide

/-- An answered clock of each wire instruction in phase 7, and of CONVD1 in each phase, answered and not. -/
theorem test_w_WireInstructionsFrame :
    (∀ i ∈ [Instr.reset24, .rdcal1, .rdcal2, .rdcal3, .rdcal4, .convd1, .convd2],
      runs (exec i (place 0 7 [inp (some 7)])) = true) ∧
    (∀ p ∈ [(0 : BitVec 3), 1, 2, 3, 4, 5, 6, 7], runs (exec .convd1 (place 5 p [inp (some 7)])) = true ∧
      runs (exec .convd1 (place 5 p [inp none])) = true) := by decide

theorem test_w_DecodeFrame : runs (exec .decode (holding 4 setA ⟨0, 0⟩)) = true := by decide
theorem test_w_ComputeFrame : runs (exec .compute (holding 7 setA ⟨16000, 29224⟩)) = true := by decide
theorem test_w_ReportFrame : runs (exec .report reportState) = true := by decide

theorem test_w_WaitFrame :
    runs (exec .wait (place 9 0 [inp none])) = true ∧ runs (exec .wait (place 9 1 [inp none])) = true ∧
    ¬((place 9 0 []).ph = 1 ∧ (place 9 0 []).timer = 0) := by decide

/-- The hypotheses of OnlyTheNamedStepWrites, and of each of its clauses: a clock that changes the register. -/
theorem test_w_OnlyTheNamedStepWrites :
    midCycle.input.rst = false ∧ (nextOf (step midCycle)).any (fun t => t.raw.d1 ≠ midCycle.raw.d1) = true ∧
    (nextOf (step (holding 4 setA ⟨0, 0⟩))).any (fun t => t.seq ≠ 4) = true ∧
    (nextOf (step { holding 4 setA ⟨0, 0⟩ with coefs := State.reset.coefs })).any
      (fun t => t.coefs ≠ State.reset.coefs) = true ∧
    (nextOf (step (holding 7 setA ⟨16000, 29224⟩))).any (fun t => t.pipe ≠ State.reset.pipe) = true ∧
    (nextOf (step reportState)).any (fun t => t.outs ≠ reportState.outs) = true ∧
    (nextOf (step { place 5 6 [inp (some 7)] with linkMode := .cmd })).any
      (fun t => t.linkMode ≠ .cmd ∧ t.rxh ≠ some 0 ∧ t.ph ≠ 6) = true := by decide

/-- The clauses on `W1` to `W4` and `D2`. -/
theorem test_w_OnlyTheNamedStepWrites_words :
    (nextOf (step (place 0 7 [inp (some 7)]))).any (fun t => t.raw.w1 ≠ some 0) = true ∧
    (nextOf (step (place 1 7 [inp (some 7)]))).any (fun t => t.raw.w2 ≠ some 0) = true ∧
    (nextOf (step (place 2 7 [inp (some 7)]))).any (fun t => t.raw.w3 ≠ some 0) = true ∧
    (nextOf (step (place 3 7 [inp (some 7)]))).any (fun t => t.raw.w4 ≠ some 0) = true ∧
    (nextOf (step (place 6 7 [inp (some 7)]))).any (fun t => t.raw.d2 ≠ some 0) = true := by decide

theorem test_w_ModeChangesBeforeExchange :
    (∀ p ∈ [(0 : BitVec 3), 6], xferStep (place 2 p []).seq = true ∧ (place 2 p [inp (some 7)]).input.rst = false ∧
      (place 2 p [inp (some 7)]).input.answer = some 7 ∧ runs (step (place 2 p [inp (some 7)])) = true) ∧
    (nextOf (step (place 2 6 [inp (some 7)]))).any (fun t => t.linkMode ≠ (place 2 6 []).linkMode) = true := by decide

theorem test_w_CommandPhaseBytesAreDiscarded :
    xferStep (place 0 4 []).seq = true ∧ (place 0 4 []).ph.toNat ≤ 4 ∧ (place 6 0 []).ph.toNat ≤ 4 := by decide

theorem test_w_ControlLegal_midCycle : ControlLegal midCycle := by constructor <;> decide

theorem test_w_ControlLegal_report : ControlLegal reportState := by constructor <;> decide

theorem test_w_ControlLegal_wait : ControlLegal waitEnd := by
  constructor <;> decide

theorem test_w_ControlLegal_reset :
    ControlLegal { midCycle with inputs := [⟨true, false, none⟩] } ∧
    ControlLegal { midCycle with inputs := [inp none] } := by
  constructor <;> constructor <;> decide

/-- SequencerAdvances: a clock that completes a step (a transaction, a micro-operation, WAIT), one that does not, and
reset; the ControlLegal witnesses stand above. -/
theorem test_w_SequencerAdvances :
    (midCycle.input.rst = false ∧ StepCompletes midCycle ∧ midCycle.seq ≠ 9 ∧ runs (step midCycle) = true) ∧
    (reportState.input.rst = false ∧ StepCompletes reportState ∧ runs (step reportState) = true) ∧
    (waitEnd.input.rst = false ∧ StepCompletes waitEnd ∧ waitEnd.seq = 9 ∧ runs (step waitEnd) = true) ∧
    (¬StepCompletes { midCycle with inputs := [inp none] } ∧
      runs (step { midCycle with inputs := [inp none] }) = true) ∧
    ({ midCycle with inputs := [⟨true, false, none⟩] } : State).input.rst = true := by
  unfold StepCompletes
  decide

theorem test_w_ValidFollowsReport :
    runs (step reportState) = true ∧ reportState.input.rst = false ∧
    runs (step (place 0 0 [⟨true, false, none⟩])) = true ∧ (place 0 0 [⟨true, false, none⟩]).input.rst = true := by
  decide

/-- TickAndLoad: each branch, with a tick in the clock. -/
theorem test_w_TickAndLoad :
    (place 6 4 [⟨false, true, some 0⟩]).input.rst = false ∧ runs (step (place 6 4 [⟨false, true, some 0⟩])) = true ∧
    runs (step (place 9 0 [⟨false, true, none⟩])) = true ∧ runs (step (place 0 4 [⟨false, true, some 0⟩])) = true ∧
    runs (step (place 0 4 [inp none])) = true := by decide

theorem test_w_PortsShowEvents :
    runs (step midCycle) = true ∧ lkReq midCycle = true ∧ lkMode midCycle = .resp ∧ lkTx midCycle = some 0x00 ∧
    runs (step reportState) = true ∧ rptValid reportState = true ∧
    (rptData reportState).isSome = true := by decide

theorem test_w_ReportPortHolds :
    (nextOf (step { midCycle with inputs := [inp (some 0x80), inp none] })).any (fun t => rptValid t = false) = true ∧
    (nextOf (step { reportState with inputs := [inp none, inp none] })).any (fun t => rptValid t = false) = true := by
  decide

theorem test_w_ResetWinsOverEverything : (place 12 5 [⟨true, true, some 0⟩]).input.rst = true := by decide

theorem test_w_WrittenBeforeRead_midCycle : WrittenBeforeRead midCycle := by
  constructor <;> first | decide | (intro h; exact absurd h (by decide))

theorem test_w_WrittenBeforeRead_report : WrittenBeforeRead reportState := by
  constructor <;> first | decide | (intro _; constructor <;> decide)

/-- The hypotheses of StepKeepsControlLegal, StepKeepsWrittenBeforeRead and InvariantStateHasNextClock. -/
theorem test_w_StepKeeps :
    ControlLegal midCycle ∧ WrittenBeforeRead midCycle ∧ runs (step midCycle) = true ∧
    ControlLegal reportState ∧ WrittenBeforeRead reportState ∧ runs (step reportState) = true :=
  ⟨test_w_ControlLegal_midCycle, test_w_WrittenBeforeRead_midCycle, by decide, test_w_ControlLegal_report,
    test_w_WrittenBeforeRead_report, by decide⟩

theorem test_w_StepKeepsWireOrder : OnTheWire midCycle ∧ runs (step midCycle) = true := by
  refine ⟨⟨fun cmd h => ?_, fun _ _ => ⟨_, _, rfl, rfl⟩⟩, by decide⟩
  have hc : currentCmd midCycle = some 0x0F40 := by decide
  rw [hc] at h
  cases h
  decide

theorem test_w_StepKeepsReportsExact : DataFlow reportState ∧ runs (step reportState) = true := by
  refine ⟨⟨fun _ => ⟨setA, by decide⟩, fun _ => ⟨setA, ⟨16000, 29224⟩, 297, 8242, by decide⟩, fun r h => ?_⟩, by decide⟩
  have he : reportState.events = [] := by decide
  rw [he] at h
  cases h

/-- Two states that differ in registers this cycle has not written: all of them, and `D1` with all that follows. -/
theorem test_w_UnwrittenRegistersNeverShow :
    (ControlLegal (place 0 0 [inp none]) ∧ WrittenBeforeRead (place 0 0 [inp none]) ∧
      SameVisible (place 0 0 [inp none]) { unwritten with inputs := [inp none] }) ∧
    (ControlLegal midCycle ∧ WrittenBeforeRead midCycle ∧
      SameVisible midCycle { midCycle with raw := { midCycle.raw with d1 := none, d2 := none }, pipe := unwritten.pipe }) := by
  refine ⟨⟨?_, ?_, ?_⟩, test_w_ControlLegal_midCycle, test_w_WrittenBeforeRead_midCycle, ?_⟩
  · constructor <;> decide
  all_goals constructor <;> first | decide | (intro h; exact absurd h (by decide))

/-- The hypotheses of CompletedTransaction and of WireBitStream. -/
theorem test_w_CompletedTransaction :
    OnTheWire midCycle ∧ midCycle.input.rst = false ∧
    microprogram midCycle.seq = some (.xfer cmdConvd1 tConvMs .d1) ∧ midCycle.ph = 7 ∧
    midCycle.input.answer = some 0x80 ∧ runs (step midCycle) = true :=
  ⟨test_w_StepKeepsWireOrder.1, by decide⟩

theorem test_w_CalibrationReadRuns :
    ∃ s : State, s.seq = 3 ∧ s.ph = 0 ∧ s.inputs =
      answers [(0, false), (0, true), (0, false), (0, false), (0, false), (0xAF, false), (0x1C, false)] ++ [] :=
  ⟨place 3 0 (answers [(0, false), (0, true), (0, false), (0, false), (0, false), (0xAF, false), (0x1C, false)]),
    by decide⟩

/-- A wait of 2: one tick, an idle clock, the second tick, the clock that ends it. -/
theorem test_w_ConversionWaitLasts :
    ∃ (s : State) (is : List Input) (i j : Input), xferStep s.seq = true ∧ s.ph = 5 ∧ s.inputs = is ++ i :: j :: [] ∧
      noReset (is ++ [i, j]) = true ∧ tickCount is + 1 = s.timer.toNat ∧ i.tick = true :=
  ⟨{ place 5 5 [⟨false, true, none⟩, inp none, ⟨false, true, none⟩, inp none] with timer := 2 },
    [⟨false, true, none⟩, inp none], ⟨false, true, none⟩, inp none, by decide⟩

/-- The shortest wait: `TIMER = 1`. -/
theorem test_w_CycleWaitLasts :
    ∃ (s : State) (is : List Input) (i j : Input), s.seq = 9 ∧ s.ph = 1 ∧ s.inputs = is ++ i :: j :: [] ∧
      noReset (is ++ [i, j]) = true ∧ tickCount is + 1 = s.timer.toNat ∧ i.tick = true :=
  ⟨{ place 9 1 [⟨false, true, none⟩, inp none] with timer := 1 }, [], ⟨false, true, none⟩, inp none, by decide⟩

end Sys2Proof.Tests
end

section
/-! SUPPORT. The clocks of Laws/Step.lean as equations (what a clock is listed as able to do, it does), the order in
which a cycle writes its raw registers, and the reads that stop; O18. -/

namespace Sys2Proof.Machine

open Sys2Proof.Safety

variable {s t : State} {cmd : Word16} {delay : Millis} {dest : Dest}

/-- A transaction holds in phase 5 while `TIMER` runs, elsewhere while the link does not answer. -/
theorem transaction_hold (hc : isCommand cmd = true)
    (hh : s.ph = 5 ∧ s.timer ≠ 0 ∨ s.ph ≠ 5 ∧ s.input.answer = none) :
    transaction cmd delay dest s = .next s.elapse := by
  rcases hh with ⟨h5, hz⟩ | ⟨n5, ha⟩
  · rw [transaction_5 hc h5, conversionPhase, if_neg hz, hold]
  · unfold transaction
    rw [if_neg (by simp [hc]), if_neg n5]
    repeat' split
    all_goals exact onAnswer_none ha

theorem resetPhase_of_next {rx : Byte} (ha : s.input.answer = some rx) (h : ResetPhaseNext s rx t) :
    resetPhase s = .next t := by
  rw [resetPhase, onAnswer_some ha]
  cases h with
  | first h0 => rw [if_pos h0]; rfl
  | second h1 => simp only [h1]; rfl
  | third h2 => simp only [h2]; rfl

theorem ResetPhaseNext.ph_lt {rx : Byte} (h : ResetPhaseNext s rx t) : s.ph.toNat < 3 := by
  cases h with
  | first h0 => simp [h0]
  | second h1 => simp [h1]
  | third h2 => simp [h2]

/-- The converse of `transaction_cases` for an enabled phase. -/
theorem TransactionNext.transaction_eq (hc : isCommand cmd = true) (h : TransactionNext cmd delay dest s t) :
    transaction cmd delay dest s = .next t := by
  cases h with
  | reset rx t ha hr => rw [transaction_lt3 hc hr.ph_lt, resetPhase_of_next ha hr]
  | commandHi rx ha h3 => rw [transaction_3 hc h3, commandHiPhase, onAnswer_some ha]
  | commandLoWait rx ha h4 hd => rw [transaction_4 hc h4, commandLoPhase, onAnswer_some ha, if_pos hd]
  | commandLo rx ha h4 hd => rw [transaction_4 hc h4, commandLoPhase, onAnswer_some ha, if_neg (by omega)]
  | waited h5 hz => rw [transaction_5 hc h5, conversionPhase, if_pos hz]
  | responseHi rx ha h6 => rw [transaction_6 hc h6, responseHiPhase, onAnswer_some ha]
  | responseLo rx hi ha h7 hr => rw [transaction_7 hc h7, responseLoPhase, onAnswer_some ha, hr]

/-- The converse of `step_next_cases`. -/
theorem ClockNext.step_eq (h : ClockNext s t) : step s = .next t := by
  cases h with
  | reset hr => exact step_rst hr
  | holdXfer hr hx hh =>
    obtain ⟨cmd, delay, dest, hc⟩ := xferAt_of_xferStep hx
    rw [step_xfer hr hc, transaction_hold hc.isCommand hh]
  | holdWait hr h9 n0 h1 =>
    rw [step_wait hr h9, waitPhase, if_neg n0]
    split
    case isTrue hp => rw [if_neg (h1 hp), hold]
    case isFalse => rfl
  | xfer hr hc hn => rw [step_xfer hr hc, hn.transaction_eq hc.isCommand]
  | decode hr h4 hw => rw [step_decode hr h4, execDecode_eq hw]
  | compute hr h7 hc hm => rw [step_compute hr h7, execCompute_eq hc hm]
  | report hr h8 hw hm hf => rw [step_report hr h8, execReport_eq hw hm hf]
  | waitLoad hr h9 h0 => rw [step_wait hr h9, waitPhase, if_pos h0]
  | waitEnd hr h9 h1 hz => rw [step_wait hr h9, waitPhase, if_neg (by simp [h1]), if_pos h1, if_pos hz]

/-- `SEQ` 0 to 9 select a statement (43_sequencer.md R210). -/
theorem microprogram_ne_none {q : BitVec 4} (h : q.toNat ≤ 9) : microprogram q ≠ none := by
  revert q; decide

/-! ### The transactions of the microprogram -/

/-- Only the two conversions have a delay, of 35 ms (30_encoding.md R81). -/
theorem XferAt.delay_pos {q : BitVec 4} (hc : XferAt q cmd delay dest)
    (hd : 0 < delay.toNat) : (q = 5 ∨ q = 6) ∧ delay.toNat ≤ 35 := by
  cases hc <;> revert hd <;> decide

theorem XferAt.seq_succ {q : BitVec 4} (hc : XferAt q cmd delay dest) :
    (q + 1).toNat = q.toNat + 1 ∧ q.toNat ≤ 6 ∧ q.toNat ≠ 4 := by
  cases hc <;> decide

/-- The value of `SEQ` from which on the cycle has written a raw register: one past the step that writes it
(43_sequencer.md R210). -/
def dueAt : Dest → Nat
  | .w1 => 1
  | .w2 => 2
  | .w3 => 3
  | .w4 => 4
  | .d1 => 6
  | .d2 => 7

/-- The step that writes a raw register. -/
theorem XferAt.seq_of_dest {q : BitVec 4} (h : XferAt q cmd delay dest) : q.toNat + 1 = dueAt dest := by
  cases h <;> rfl

theorem dueAt_pos (d : Dest) : 0 < dueAt d := by cases d <;> decide

theorem dueAt_le (d : Dest) : dueAt d ≤ 7 := by cases d <;> decide

/-- DECODE's end makes no raw register due. -/
theorem dueAt_le_four {d : Dest} (h : dueAt d ≤ 5) : dueAt d ≤ 4 := by cases d <;> revert h <;> decide

/-- The end of a transaction makes its own destination due, and no other register. -/
theorem XferAt.dueAt_of_ne {q : BitVec 4} {d : Dest} (hc : XferAt q cmd delay dest) (hd : d ≠ dest)
    (h : dueAt d ≤ (q + 1).toNat) : dueAt d ≤ q.toNat := by
  cases hc <;> cases d <;> revert hd h <;> decide

/-! ### Registers without a value -/

theorem RawWords.words_eq_none_of {r : RawWords} (h : r.w1 = none ∨ r.w2 = none ∨ r.w3 = none ∨ r.w4 = none) :
    r.words = none := by
  cases hw : r.words with
  | none => rfl
  | some w => simp [RawWords.words_eq_some.mp hw] at h

theorem RawWords.meas_eq_none_of {r : RawWords} (h : r.d1 = none ∨ r.d2 = none) : r.meas = none := by
  cases hm : r.meas with
  | none => rfl
  | some m => simp [RawWords.meas_eq_some.mp hm] at h

theorem Pipe.fin_eq_none_of {p : Pipe} (h : p.tempFin = none ∨ p.pFin = none) : p.fin = none := by
  cases hf : p.fin with
  | none => rfl
  | some f => simp [Pipe.fin_eq_some.mp hf] at h

theorem execDecode_fault (h : s.raw.words = none) : execDecode s = .fault .readUnwritten := by
  simp [execDecode, h]

theorem execCompute_fault (h : s.coefs.vals = none ∨ s.raw.meas = none) :
    execCompute s = .fault .readUnwritten := by
  rcases h with h | h <;> simp [execCompute, h]

theorem execReport_fault (h : s.raw.words = none ∨ s.raw.meas = none ∨ s.pipe.fin = none) :
    execReport s = .fault .readUnwritten := by
  rcases h with h | h | h <;> simp [execReport, h]

theorem transaction_fault {rx : Byte} (hc : isCommand cmd = true) (ha : s.input.answer = some rx) (h7 : s.ph = 7)
    (hr : s.rxh = none) : transaction cmd delay dest s = .fault .readUnwritten := by
  rw [transaction_7 hc h7, responseLoPhase, onAnswer_some ha, hr]

/-- A row of R81's table is a transaction with that row's command, delay and destination. -/
theorem exec_commandRow {row : CommandRow} (h : row ∈ commandRows) (s : State) :
    isCommand row.cmd = true ∧ exec row.instr s = transaction row.cmd row.delay row.dest s := by
  simp only [commandRows, List.mem_cons, List.not_mem_nil, or_false] at h
  rcases h with rfl | rfl | rfl | rfl | rfl | rfl <;> exact ⟨rfl, rfl⟩

/-- Settles O18: each reading step by the register it finds without a value. -/
theorem unwrittenReadsStop : Obligations.UnwrittenReadsStop := by
  refine fun s => ⟨fun h => ?words, fun h => ?meas, fun h => ?coefs, fun h => ?fin, fun row hrow rx ha h7 hr => ?rxh⟩
  case words =>
    have hw := RawWords.words_eq_none_of h
    exact ⟨execDecode_fault hw, execReport_fault (.inl hw)⟩
  case meas =>
    have hm := RawWords.meas_eq_none_of h
    exact ⟨execCompute_fault (.inr hm), execReport_fault (.inr (.inl hm))⟩
  case coefs => exact execCompute_fault (.inl h)
  case fin => exact execReport_fault (.inr (.inr (Pipe.fin_eq_none_of h)))
  case rxh =>
    obtain ⟨hc, he⟩ := exec_commandRow hrow s
    rw [he, transaction_fault hc ha h7 hr]

end Sys2Proof.Machine
end

section
/-! SUPPORT. The control registers' legal shape (10_state.md R33 to R36): the two ways a clock reaches it, at the
beginning of a step and inside a transaction; O49. -/

namespace Sys2Proof.Safety

open Sys2Proof.Machine

variable {s t : State}

/-- A state at the beginning of a step. -/
theorem ControlLegal.of_stepStart (hq : s.seq.toNat ≤ 9) (hp : s.ph = 0) (hm : s.seq ≠ 0 → s.linkMode = .resp)
    (ht : s.timer = 0) (hb : s.pipe.br ≠ some 0b11) : ControlLegal s where
  seqLegal := hq
  phMicro _ := hp
  phWait _ := by simp [hp]
  phDelay h := by simp [hp] at h
  modeSend _ h := by simp [hp] at h
  modeRead _ h := by simp [hp] at h
  modeIdle h _ := hm h
  timerConv _ h := by simp [hp] at h
  timerWait _ h := by simp [hp] at h
  timerIdle _ _ := ht
  brLegal := hb

/-- At the beginning of a cycle the link may be in either mode. -/
theorem ControlLegal.of_cycleStart (hq : s.seq = 0) (hp : s.ph = 0) (ht : s.timer = 0) (hb : s.pipe.br ≠ some 0b11) :
    ControlLegal s :=
  .of_stepStart (by simp [hq]) hp (fun n0 => absurd hq n0) ht hb

/-- A transaction is no micro-operation. -/
theorem seq_of_xferStep {q : BitVec 4} (h : xferStep q = true) :
    ¬(q = 4 ∨ q = 7 ∨ q = 8) ∧ q ≠ 9 ∧ q.toNat ≤ 6 := by
  revert q; decide

/-- A state after phase 0 of a transaction. -/
theorem ControlLegal.of_inTransaction (hx : xferStep s.seq = true) (hp : s.ph ≠ 0)
    (hm : s.linkMode = if s.ph = 7 then .resp else .cmd)
    (hw : s.ph = 5 → (s.seq = 5 ∨ s.seq = 6) ∧ s.timer.toNat ≤ 35) (ht : s.ph ≠ 5 → s.timer = 0)
    (hb : s.pipe.br ≠ some 0b11) : ControlLegal s := by
  obtain ⟨hmicro, n9, hq⟩ := seq_of_xferStep hx
  exact {
    seqLegal := by omega
    phMicro := fun h => absurd h hmicro
    phWait := fun h => absurd h n9
    phDelay := fun h => (hw h).1
    modeSend := fun _ _ h6 => by rw [hm, if_neg (by rintro h; simp [h] at h6)]
    modeRead := fun _ h => by rw [hm, if_pos h]
    modeIdle := fun _ h => absurd h (not_or.mpr ⟨hp, n9⟩)
    timerConv := fun _ h => (hw h).2
    timerWait := fun h => absurd h n9
    timerIdle := fun h _ => ht fun h5 => h ⟨hx, h5⟩
    brLegal := hb }

/-- At 0 a tick is lost (60_exceptions.md R247). -/
theorem elapse_timer_of_zero (h : s.timer = 0) : s.elapse.timer = 0 := by
  rw [State.elapse_timer, h, tickTimer_zero]

/-- A tick only lowers `TIMER`. -/
theorem ControlLegal.elapse (h : ControlLegal s) : ControlLegal s.elapse :=
  { h with
    timerConv := fun hx h5 => (tickTimer_le _ _).trans (h.timerConv hx h5)
    timerWait := fun h9 h1 => (tickTimer_le _ _).trans (h.timerWait h9 h1)
    timerIdle := fun hx h9 => elapse_timer_of_zero (h.timerIdle hx h9) }

/-- Outside the conversion wait a transaction leaves `TIMER` at 0, tick or not. -/
theorem ControlLegal.elapse_timer_of_xferStep (h : ControlLegal s) (hx : xferStep s.seq = true) (h5 : s.ph ≠ 5) :
    s.elapse.timer = 0 := by
  obtain ⟨-, n9, -⟩ := seq_of_xferStep hx
  exact elapse_timer_of_zero (h.timerIdle (fun hc => h5 hc.2) (fun hc => n9 hc.1))

/-- DECODE, COMPUTE and REPORT stand at the beginning of their step, with the link idle and the timer at rest. -/
theorem ControlLegal.at_microOp (h : ControlLegal s) (hq : s.seq = 4 ∨ s.seq = 7 ∨ s.seq = 8) :
    s.ph = 0 ∧ s.linkMode = .resp ∧ s.elapse.timer = 0 := by
  have hp := h.phMicro hq
  have hx : ∀ q : BitVec 4, q = 4 ∨ q = 7 ∨ q = 8 → q ≠ 0 := by decide
  exact ⟨hp, h.modeIdle (hx _ hq) (.inl hp), elapse_timer_of_zero (h.timerIdle (by simp [hp]) (by simp [hp]))⟩

theorem ControlLegal.resetPhase {rx : Byte} (h : ControlLegal s) (hx : xferStep s.seq = true)
    (hn : ResetPhaseNext s rx t) : ControlLegal t := by
  cases hn with
  | first h0 =>
    exact .of_inTransaction hx (by simp) rfl (by simp)
      (fun _ => h.elapse_timer_of_xferStep hx (by simp [h0])) h.brLegal
  | second h1 =>
    exact .of_inTransaction hx (by simp) (h.modeSend hx (by simp [h1]) (by simp [h1])) (by simp)
      (fun _ => h.elapse_timer_of_xferStep hx (by simp [h1])) h.brLegal
  | third h2 =>
    exact .of_inTransaction hx (by simp) (h.modeSend hx (by simp [h2]) (by simp [h2])) (by simp)
      (fun _ => h.elapse_timer_of_xferStep hx (by simp [h2])) h.brLegal

theorem ControlLegal.transaction {cmd : Word16} {delay : Millis} {dest : Dest} (h : ControlLegal s)
    (hc : XferAt s.seq cmd delay dest) (hn : TransactionNext cmd delay dest s t) : ControlLegal t := by
  have hx := hc.xferStep
  cases hn with
  | reset rx t _ hr => exact h.resetPhase hx hr
  | commandHi rx _ h3 =>
    exact .of_inTransaction hx (by simp) (h.modeSend hx (by simp [h3]) (by simp [h3])) (by simp)
      (fun _ => h.elapse_timer_of_xferStep hx (by simp [h3])) h.brLegal
  | commandLoWait rx _ h4 hd =>
    exact .of_inTransaction hx (by simp) (h.modeSend hx (by simp [h4]) (by simp [h4])) (fun _ => hc.delay_pos hd)
      (by simp) h.brLegal
  | commandLo rx _ h4 =>
    exact .of_inTransaction hx (by simp) (h.modeSend hx (by simp [h4]) (by simp [h4])) (by simp)
      (fun _ => h.elapse_timer_of_xferStep hx (by simp [h4])) h.brLegal
  | waited h5 hz =>
    exact .of_inTransaction hx (by simp) (h.modeSend hx (by simp [h5]) (by simp [h5])) (by simp)
      (fun _ => elapse_timer_of_zero hz) h.brLegal
  | responseHi rx _ h6 =>
    exact .of_inTransaction hx (by simp) rfl (by simp)
      (fun _ => h.elapse_timer_of_xferStep hx (by simp [h6])) h.brLegal
  | responseLo rx hi _ h7 =>
    obtain ⟨hs, hq, -⟩ := hc.seq_succ
    exact .of_stepStart (by simp only [State.setSeq_seq]; omega) rfl (fun _ => h.modeRead hx h7)
      (h.elapse_timer_of_xferStep hx (by simp [h7])) h.brLegal

/-- Settles O49: a clock holds, goes on inside a transaction or the wait, or begins a step. -/
theorem stepKeepsControlLegal : Obligations.StepKeepsControlLegal := by
  intro s t h hstep
  cases step_next_cases hstep with
  | reset => exact .of_cycleStart rfl rfl rfl (by simp [State.reset])
  | holdXfer | holdWait => exact h.elapse
  | xfer _ hc hn => exact h.transaction hc hn
  | decode _ h4 =>
    obtain ⟨hp, hm, ht⟩ := h.at_microOp (.inl h4)
    exact .of_stepStart (by simp) hp (fun _ => hm) ht h.brLegal
  | @compute c m _ h7 =>
    obtain ⟨hp, hm, ht⟩ := h.at_microOp (.inr (.inl h7))
    exact .of_stepStart (by simp) hp (fun _ => hm) ht
      (by simpa [pipeOf] using Branch.code_ne_three (branchOf (firstOrder (compIn c m)).temp))
  | report _ h8 =>
    obtain ⟨hp, hm, ht⟩ := h.at_microOp (.inr (.inr h8))
    exact .of_stepStart (by simp) hp (fun _ => hm) ht h.brLegal
  | waitLoad _ h9 h0 =>
    exact {
      seqLegal := h.seqLegal
      phMicro := by simp [h9]
      phWait := by simp
      phDelay := by simp
      modeSend := by simp [h9, xferStep]
      modeRead := by simp
      modeIdle := fun hq _ => h.modeIdle hq (.inr h9)
      timerConv := by simp
      timerWait := fun _ _ => le_refl 5000
      timerIdle := by simp [h9]
      brLegal := h.brLegal }
  | waitEnd _ h9 h1 hz => exact .of_cycleStart rfl rfl (elapse_timer_of_zero hz) h.brLegal

end Sys2Proof.Safety
end

section
/-! SUPPORT. Written before read (10_state.md R28): one rule per operation on the state; O50, O51, O48. -/

namespace Sys2Proof.Safety

open Sys2Proof.Machine

variable {s t : State}

/-- At the beginning of a cycle nothing need be written. -/
theorem WrittenBeforeRead.of_cycleStart (hq : s.seq = 0) (hp : s.ph = 0) (hv : s.outs.valid = false) :
    WrittenBeforeRead s := by
  constructor <;> simp [hq, hp, hv]

theorem WrittenBeforeRead.raw (h : WrittenBeforeRead s) : ∀ d, dueAt d ≤ s.seq.toNat → (s.raw.read d).isSome
  | .w1 => h.w1
  | .w2 => h.w2
  | .w3 => h.w3
  | .w4 => h.w4
  | .d1 => h.d1
  | .d2 => h.d2

/-! ### What a step reads holds a value -/

theorem WrittenBeforeRead.exists_words (h : WrittenBeforeRead s) (hq : 4 ≤ s.seq.toNat) :
    ∃ w, s.raw.words = some w := by
  obtain ⟨w1, h1⟩ := Option.isSome_iff_exists.mp (h.w1 (by omega))
  obtain ⟨w2, h2⟩ := Option.isSome_iff_exists.mp (h.w2 (by omega))
  obtain ⟨w3, h3⟩ := Option.isSome_iff_exists.mp (h.w3 (by omega))
  obtain ⟨w4, h4⟩ := Option.isSome_iff_exists.mp (h.w4 hq)
  exact ⟨⟨w1, w2, w3, w4⟩, RawWords.words_eq_some.mpr ⟨h1, h2, h3, h4⟩⟩

theorem WrittenBeforeRead.exists_meas (h : WrittenBeforeRead s) (hq : 7 ≤ s.seq.toNat) :
    ∃ m, s.raw.meas = some m := by
  obtain ⟨d1, h1⟩ := Option.isSome_iff_exists.mp (h.d1 (by omega))
  obtain ⟨d2, h2⟩ := Option.isSome_iff_exists.mp (h.d2 hq)
  exact ⟨⟨d1, d2⟩, RawWords.meas_eq_some.mpr ⟨h1, h2⟩⟩

theorem WrittenBeforeRead.exists_fin (h : WrittenBeforeRead s) (hq : 8 ≤ s.seq.toNat) :
    ∃ f, s.pipe.fin = some f := by
  obtain ⟨a, ha⟩ := Option.isSome_iff_exists.mp (h.pipe hq).tempFin
  obtain ⟨b, hb⟩ := Option.isSome_iff_exists.mp (h.pipe hq).pFin
  exact ⟨⟨a, b⟩, Pipe.fin_eq_some.mpr ⟨ha, hb⟩⟩

/-! ### The operations keep it -/

theorem WrittenBeforeRead.elapse (h : WrittenBeforeRead s) : WrittenBeforeRead s.elapse := { h with }

theorem WrittenBeforeRead.exchange (h : WrittenBeforeRead s) (m : LinkMode) (tx rx : Byte) :
    WrittenBeforeRead (s.exchange m tx rx) := { h with }

theorem WrittenBeforeRead.emit (h : WrittenBeforeRead s) (r : Report) : WrittenBeforeRead (s.emit r) := { h with }

theorem WrittenBeforeRead.setLinkMode (h : WrittenBeforeRead s) (m : LinkMode) :
    WrittenBeforeRead (s.setLinkMode m) := { h with }

theorem WrittenBeforeRead.setTimer (h : WrittenBeforeRead s) (n : Millis) : WrittenBeforeRead (s.setTimer n) :=
  { h with }

theorem WrittenBeforeRead.setRxh (h : WrittenBeforeRead s) (b : Byte) : WrittenBeforeRead (s.setRxh b) :=
  { h with rxh := fun _ _ => rfl }

theorem WrittenBeforeRead.setPh (h : WrittenBeforeRead s) {p : BitVec 3} (hp : p ≠ 7 ∨ s.rxh.isSome) :
    WrittenBeforeRead (s.setPh p) :=
  { h with rxh := fun _ h7 => hp.resolve_left (not_not.mpr h7) }

theorem WrittenBeforeRead.setCoefs (h : WrittenBeforeRead s) (c : CoefVals) : WrittenBeforeRead (s.setCoefs c.regs) :=
  { h with coefs := fun _ => rfl }

theorem pipeWritten_pipeOf (br : BitVec 2) (f : FirstOrder) (g : SecondOrder) : PipeWritten (pipeOf br f g) := by
  constructor <;> rfl

theorem WrittenBeforeRead.setPipe (h : WrittenBeforeRead s) {q : Pipe} (hq : PipeWritten q) :
    WrittenBeforeRead (s.setPipe q) :=
  { h with pipe := fun _ => hq }

theorem WrittenBeforeRead.setOutputs (h : WrittenBeforeRead s) (t p : OutWord) (v : Bool) :
    WrittenBeforeRead (s.setOutputs { tempOut := some t, pOut := some p, valid := v }) :=
  { h with outs := fun _ => ⟨rfl, rfl⟩ }

theorem isSome_read_write {r : RawWords} {dest d : Dest} (v : Word16) (h : d ≠ dest → (r.read d).isSome) :
    ((r.write dest v).read d).isSome := by
  by_cases hd : d = dest
  · simp [hd]
  · rw [RawWords.read_write_other r v hd]
    exact h hd

theorem WrittenBeforeRead.write (h : WrittenBeforeRead s) (dest : Dest) (v : Word16) :
    WrittenBeforeRead (s.setRaw (s.raw.write dest v)) :=
  have hd (d : Dest) (hq : dueAt d ≤ s.seq.toNat) : ((s.raw.write dest v).read d).isSome :=
    isSome_read_write v fun _ => h.raw d hq
  { h with w1 := hd .w1, w2 := hd .w2, w3 := hd .w3, w4 := hd .w4, d1 := hd .d1, d2 := hd .d2 }

/-- A step ends when what its successor counts on has been written. -/
theorem WrittenBeforeRead.setSeq (h : WrittenBeforeRead s) {q : BitVec 4} (hp : s.ph = 0)
    (hraw : ∀ d, dueAt d ≤ q.toNat → (s.raw.read d).isSome) (hcoefs : 5 ≤ q.toNat → s.coefs.vals.isSome)
    (hpipe : 8 ≤ q.toNat → PipeWritten s.pipe) : WrittenBeforeRead (s.setSeq q) :=
  { h with
    w1 := hraw .w1, w2 := hraw .w2, w3 := hraw .w3, w4 := hraw .w4, d1 := hraw .d1, d2 := hraw .d2
    coefs := hcoefs
    pipe := hpipe
    rxh := fun _ h7 => by simp [hp] at h7 }

/-! ### Every clock keeps it -/

theorem WrittenBeforeRead.transaction {cmd : Word16} {delay : Millis} {dest : Dest} (h : WrittenBeforeRead s)
    (hc : XferAt s.seq cmd delay dest) (hn : TransactionNext cmd delay dest s t) : WrittenBeforeRead t := by
  cases hn with
  | reset rx t _ hr =>
    cases hr with
    | first => exact ((h.elapse.setLinkMode _).exchange ..).setPh (.inl (by decide))
    | second | third => exact (h.elapse.exchange ..).setPh (.inl (by decide))
  | commandHi | commandLo => exact (h.elapse.exchange ..).setPh (.inl (by decide))
  | commandLoWait => exact ((h.elapse.exchange ..).setTimer _).setPh (.inl (by decide))
  | waited => exact h.elapse.setPh (.inl (by decide))
  | responseHi => exact (((h.elapse.setLinkMode _).exchange ..).setRxh _).setPh (.inr rfl)
  | responseLo rx hi =>
    obtain ⟨hs, hq, n4⟩ := hc.seq_succ
    exact (((h.elapse.exchange ..).write dest (wordOfBytes hi rx)).setPh (.inl (by decide))).setSeq rfl
      (fun d hd => isSome_read_write _ fun hne => h.raw d (hc.dueAt_of_ne hne hd))
      (fun h5 => h.coefs (by omega)) (fun h8 => h.pipe (by omega))

/-- Settles O50: a transaction writes what its end makes due, and so does each micro-operation. -/
theorem stepKeepsWrittenBeforeRead : Obligations.StepKeepsWrittenBeforeRead := by
  intro s t hl h hstep
  cases step_next_cases hstep with
  | reset => exact .of_cycleStart rfl rfl rfl
  | holdXfer | holdWait => exact h.elapse
  | xfer _ hc hn => exact h.transaction hc hn
  | decode _ h4 =>
    exact (h.elapse.setCoefs _).setSeq (hl.phMicro (.inl h4))
      (fun d hd => h.raw d (by simpa [h4] using dueAt_le_four hd)) (fun _ => rfl) (fun h8 => absurd h8 (by decide))
  | compute _ h7 =>
    exact (h.elapse.setPipe (pipeWritten_pipeOf ..)).setSeq (hl.phMicro (.inr (.inl h7)))
      (fun d _ => h.raw d ((dueAt_le d).trans (by simp [h7]))) (fun _ => h.coefs (by simp [h7]))
      (fun _ => pipeWritten_pipeOf ..)
  | report _ h8 =>
    exact ((h.elapse.setOutputs ..).emit _).setSeq (hl.phMicro (.inr (.inr h8)))
      (fun d _ => h.raw d ((dueAt_le d).trans (by simp [h8]))) (fun _ => h.coefs (by simp [h8]))
      (fun _ => h.pipe (by simp [h8]))
  | waitLoad => exact (h.elapse.setTimer _).setPh (.inl (by decide))
  | waitEnd =>
    exact (h.elapse.setPh (.inl (by decide))).setSeq rfl (fun d hd => absurd hd (dueAt_pos d).not_ge)
      (fun h5 => absurd h5 (by decide)) (fun h8 => absurd h8 (by decide))

/-- A clock answers a next state where `SEQ` selects a statement and what it reads is written. -/
theorem WrittenBeforeRead.step_total (h : WrittenBeforeRead s) (hq : s.seq.toNat ≤ 9) : ∃ t, step s = .next t := by
  cases hr : s.input.rst with
  | true => exact ⟨_, step_rst hr⟩
  | false =>
    rcases seq_cases s.seq with hx | h4 | h7 | h8 | h9 | hn
    · obtain ⟨cmd, delay, dest, hc⟩ := xferAt_of_xferStep hx
      rw [step_xfer hr hc]
      exact transaction_total hc.isCommand (h.rxh hx)
    · obtain ⟨w, hw⟩ := h.exists_words (by simp [h4])
      exact ⟨_, (ClockNext.decode hr h4 hw).step_eq⟩
    · obtain ⟨m, hm⟩ := h.exists_meas (by simp [h7])
      obtain ⟨c, hc⟩ := Option.isSome_iff_exists.mp (h.coefs (by simp [h7]))
      exact ⟨_, (ClockNext.compute hr h7 hc hm).step_eq⟩
    · obtain ⟨w, hw⟩ := h.exists_words (by simp [h8])
      obtain ⟨m, hm⟩ := h.exists_meas (by simp [h8])
      obtain ⟨f, hf⟩ := h.exists_fin (by simp [h8])
      exact ⟨_, (ClockNext.report hr h8 hw hm hf).step_eq⟩
    · rw [step_wait hr h9]
      exact waitPhase_total _ s
    · exact absurd hn (microprogram_ne_none hq)

/-- Settles O51: `SEQ` selects a statement, and what it reads is written. -/
theorem invariantStateHasNextClock : Obligations.InvariantStateHasNextClock :=
  fun _ hl h => h.step_total hl.seqLegal

/-! ### The state at the beginning of a run -/

theorem OnTheWire.of_transactionStart (hp : s.ph = 0) : OnTheWire s where
  sends _ _ := by simp [hp, exchangesDone]
  kept _ h7 := by simp [hp] at h7

theorem DataFlow.of_cycleStart (hq : s.seq = 0) (he : s.events = []) : DataFlow s := by
  constructor <;> simp [hq, he]

/-- Settles O48: both states stand at the beginning of a cycle, with no event yet. -/
theorem invariantsHoldAtReset : Obligations.InvariantsHoldAtReset := by
  refine ⟨⟨?reset, .of_cycleStart rfl rfl rfl, .of_transactionStart rfl, .of_cycleStart rfl rfl⟩,
    ⟨?unwritten, .of_cycleStart rfl rfl rfl, .of_transactionStart rfl, .of_cycleStart rfl rfl⟩⟩
  case reset | unwritten => exact .of_cycleStart rfl rfl rfl (by decide)

end Sys2Proof.Safety
end

section
/-! SUPPORT. What a cycle has not written yet never shows (10_state.md R28): one rule per operation on two states
that look the same; O54 and O55. -/

namespace Sys2Proof.Safety

open Sys2Proof.Machine

variable {s t s' : State}

/-! ### What a step reads is the same in both states -/

theorem SameVisible.input (h : SameVisible s t) : s.input = t.input := by
  simp only [State.input, h.inputs, h.clock]

theorem SameVisible.raw (h : SameVisible s t) : ∀ d, dueAt d ≤ s.seq.toNat → s.raw.read d = t.raw.read d
  | .w1 => h.w1
  | .w2 => h.w2
  | .w3 => h.w3
  | .w4 => h.w4
  | .d1 => h.d1
  | .d2 => h.d2

theorem SameVisible.words (h : SameVisible s t) (hq : 4 ≤ s.seq.toNat) : s.raw.words = t.raw.words := by
  simp only [RawWords.words, h.w1 (by omega), h.w2 (by omega), h.w3 (by omega), h.w4 hq]

theorem SameVisible.meas (h : SameVisible s t) (hq : 7 ≤ s.seq.toNat) : s.raw.meas = t.raw.meas := by
  simp only [RawWords.meas, h.d1 (by omega), h.d2 hq]

theorem SameVisible.resultPort (h : SameVisible s t) : resultPort s = resultPort t := by
  cases hv : s.outs.valid with
  | false => simp [Machine.resultPort, ← h.valid, hv]
  | true => simp only [Machine.resultPort, h.outs hv]

/-! ### The operations keep the states alike -/

theorem SameVisible.elapse (h : SameVisible s t) : SameVisible s.elapse t.elapse :=
  { h with
    timer := by simp only [State.elapse_timer, h.input, h.timer]
    inputs := congrArg List.tail h.inputs
    clock := congrArg (· + 1) h.clock }

theorem SameVisible.exchange (h : SameVisible s t) (m : LinkMode) (tx rx : Byte) :
    SameVisible (s.exchange m tx rx) (t.exchange m tx rx) :=
  { h with events := congrArg (_ :: ·) h.events }

theorem SameVisible.emit (h : SameVisible s t) (r : Report) : SameVisible (s.emit r) (t.emit r) :=
  { h with events := congrArg (_ :: ·) h.events }

theorem SameVisible.setLinkMode (h : SameVisible s t) (m : LinkMode) :
    SameVisible (s.setLinkMode m) (t.setLinkMode m) :=
  { h with linkMode := rfl }

theorem SameVisible.setTimer (h : SameVisible s t) (n : Millis) : SameVisible (s.setTimer n) (t.setTimer n) :=
  { h with timer := rfl }

theorem SameVisible.setRxh (h : SameVisible s t) (b : Byte) : SameVisible (s.setRxh b) (t.setRxh b) :=
  { h with rxh := fun _ _ => rfl }

theorem SameVisible.setPh (h : SameVisible s t) {p : BitVec 3} (hp : p ≠ 7 ∨ s.rxh = t.rxh) :
    SameVisible (s.setPh p) (t.setPh p) :=
  { h with
    ph := rfl
    rxh := fun _ h7 => hp.resolve_left (not_not.mpr h7) }

theorem SameVisible.setCoefs (h : SameVisible s t) (c : Coefs) : SameVisible (s.setCoefs c) (t.setCoefs c) :=
  { h with coefs := fun _ => rfl }

theorem SameVisible.setPipe (h : SameVisible s t) (q : Pipe) : SameVisible (s.setPipe q) (t.setPipe q) :=
  { h with pipe := fun _ => rfl }

theorem SameVisible.setOutputs (h : SameVisible s t) (o : Outputs) : SameVisible (s.setOutputs o) (t.setOutputs o) :=
  { h with
    valid := rfl
    outs := fun _ => rfl }

theorem read_write_congr {r r' : RawWords} {dest d : Dest} (v : Word16) (h : d ≠ dest → r.read d = r'.read d) :
    (r.write dest v).read d = (r'.write dest v).read d := by
  by_cases hd : d = dest
  · simp [hd]
  · rw [RawWords.read_write_other r v hd, RawWords.read_write_other r' v hd, h hd]

theorem SameVisible.write (h : SameVisible s t) (dest : Dest) (v : Word16) :
    SameVisible (s.setRaw (s.raw.write dest v)) (t.setRaw (t.raw.write dest v)) :=
  have hd (d : Dest) (hq : dueAt d ≤ s.seq.toNat) : (s.raw.write dest v).read d = (t.raw.write dest v).read d :=
    read_write_congr v fun _ => h.raw d hq
  { h with w1 := hd .w1, w2 := hd .w2, w3 := hd .w3, w4 := hd .w4, d1 := hd .d1, d2 := hd .d2 }

/-- A step ends when what its successor counts on is the same in both states. -/
theorem SameVisible.setSeq (h : SameVisible s t) {q : BitVec 4} (hp : s.ph = 0)
    (hraw : ∀ d, dueAt d ≤ q.toNat → s.raw.read d = t.raw.read d) (hcoefs : 5 ≤ q.toNat → s.coefs = t.coefs)
    (hpipe : 8 ≤ q.toNat → s.pipe = t.pipe) : SameVisible (s.setSeq q) (t.setSeq q) :=
  { h with
    seq := rfl
    w1 := hraw .w1, w2 := hraw .w2, w3 := hraw .w3, w4 := hraw .w4, d1 := hraw .d1, d2 := hraw .d2
    coefs := hcoefs
    pipe := hpipe
    rxh := fun _ h7 => by simp [hp] at h7 }

/-- Block reset gives both states the same registers. -/
theorem SameVisible.blockReset (h : SameVisible s t) : SameVisible (blockReset s) (blockReset t) := by
  constructor <;> simp [h.events, h.inputs, h.clock]

/-! ### A clock of the one state is a clock of the other -/

/-- An answered phase of a transaction is answered in both states, and keeps them alike. -/
theorem SameVisible.transactionNext {cmd : Word16} {delay : Millis} {dest : Dest} (h : SameVisible s t)
    (hc : XferAt s.seq cmd delay dest) (hn : TransactionNext cmd delay dest s s') :
    ∃ t', TransactionNext cmd delay dest t t' ∧ SameVisible s' t' := by
  cases hn with
  | reset rx s' ha hr =>
    rw [h.input] at ha
    cases hr with
    | first hp =>
      exact ⟨_, .reset rx _ ha (.first (h.ph ▸ hp)), ((h.elapse.setLinkMode _).exchange ..).setPh (.inl (by decide))⟩
    | second hp =>
      exact ⟨_, .reset rx _ ha (.second (h.ph ▸ hp)), (h.elapse.exchange ..).setPh (.inl (by decide))⟩
    | third hp =>
      exact ⟨_, .reset rx _ ha (.third (h.ph ▸ hp)), (h.elapse.exchange ..).setPh (.inl (by decide))⟩
  | commandHi rx ha hp =>
    exact ⟨_, .commandHi rx (h.input ▸ ha) (h.ph ▸ hp), (h.elapse.exchange ..).setPh (.inl (by decide))⟩
  | commandLoWait rx ha hp hd =>
    exact ⟨_, .commandLoWait rx (h.input ▸ ha) (h.ph ▸ hp) hd,
      ((h.elapse.exchange ..).setTimer _).setPh (.inl (by decide))⟩
  | commandLo rx ha hp hd =>
    exact ⟨_, .commandLo rx (h.input ▸ ha) (h.ph ▸ hp) hd, (h.elapse.exchange ..).setPh (.inl (by decide))⟩
  | waited hp hz => exact ⟨_, .waited (h.ph ▸ hp) (h.timer ▸ hz), h.elapse.setPh (.inl (by decide))⟩
  | responseHi rx ha hp =>
    exact ⟨_, .responseHi rx (h.input ▸ ha) (h.ph ▸ hp),
      (((h.elapse.setLinkMode _).exchange ..).setRxh _).setPh (.inr rfl)⟩
  | responseLo rx hi ha hp hr =>
    obtain ⟨hs, hq, n4⟩ := hc.seq_succ
    refine ⟨_, .responseLo rx hi (h.input ▸ ha) (h.ph ▸ hp) (h.rxh hc.xferStep hp ▸ hr), ?_⟩
    rw [← h.seq]
    exact (((h.elapse.exchange ..).write dest (wordOfBytes hi rx)).setPh (.inl (by decide))).setSeq rfl
      (fun d hd => read_write_congr _ fun hne => h.raw d (hc.dueAt_of_ne hne hd))
      (fun h5 => h.coefs (by omega)) (fun h8 => h.pipe (by omega))

/-- What a clock can do from the one state it can do from the other, and the next states look the same. -/
theorem SameVisible.clockNext (h : SameVisible s t) (hl : ControlLegal s) (hn : ClockNext s s') :
    ∃ t', ClockNext t t' ∧ SameVisible s' t' := by
  cases hn with
  | reset hr => exact ⟨_, .reset (h.input ▸ hr), h.blockReset⟩
  | holdXfer hr hx hh =>
    exact ⟨_, .holdXfer (h.input ▸ hr) (h.seq ▸ hx) (by rwa [← h.ph, ← h.timer, ← h.input]), h.elapse⟩
  | holdWait hr h9 n0 h1 =>
    exact ⟨_, .holdWait (h.input ▸ hr) (h.seq ▸ h9) (h.ph ▸ n0) (by rwa [← h.ph, ← h.timer]), h.elapse⟩
  | xfer hr hc hn =>
    obtain ⟨t', hn', h'⟩ := h.transactionNext hc hn
    exact ⟨t', .xfer (h.input ▸ hr) (h.seq ▸ hc) hn', h'⟩
  | decode hr h4 hw =>
    exact ⟨_, .decode (h.input ▸ hr) (h.seq ▸ h4) (h.words (by simp [h4]) ▸ hw),
      (h.elapse.setCoefs _).setSeq (hl.phMicro (.inl h4)) (fun d hd => h.raw d (by simpa [h4] using dueAt_le_four hd))
        (fun _ => rfl) (fun h8 => absurd h8 (by decide))⟩
  | compute hr h7 hc hm =>
    have hcoefs := h.coefs (by simp [h7])
    exact ⟨_, .compute (h.input ▸ hr) (h.seq ▸ h7) (hcoefs ▸ hc) (h.meas (by simp [h7]) ▸ hm),
      (h.elapse.setPipe _).setSeq (hl.phMicro (.inr (.inl h7))) (fun d _ => h.raw d ((dueAt_le d).trans (by simp [h7])))
        (fun _ => hcoefs) (fun _ => rfl)⟩
  | report hr h8 hw hm hf =>
    have hpipe := h.pipe (by simp [h8])
    exact ⟨_, .report (h.input ▸ hr) (h.seq ▸ h8) (h.words (by simp [h8]) ▸ hw) (h.meas (by simp [h8]) ▸ hm)
        (hpipe ▸ hf),
      ((h.elapse.setOutputs _).emit _).setSeq (hl.phMicro (.inr (.inr h8)))
        (fun d _ => h.raw d ((dueAt_le d).trans (by simp [h8]))) (fun _ => h.coefs (by simp [h8])) (fun _ => hpipe)⟩
  | waitLoad hr h9 h0 =>
    exact ⟨_, .waitLoad (h.input ▸ hr) (h.seq ▸ h9) (h.ph ▸ h0), (h.elapse.setTimer _).setPh (.inl (by decide))⟩
  | waitEnd hr h9 h1 hz =>
    exact ⟨_, .waitEnd (h.input ▸ hr) (h.seq ▸ h9) (h.ph ▸ h1) (h.timer ▸ hz),
      (h.elapse.setPh (.inl (by decide))).setSeq rfl (fun d hd => absurd hd (dueAt_pos d).not_ge)
        (fun h5 => absurd h5 (by decide)) (fun h8 => absurd h8 (by decide))⟩

/-- Settles O54: the one state has a next clock, and the other takes the same one. -/
theorem unwrittenRegistersNeverShow : Obligations.UnwrittenRegistersNeverShow := by
  intro s t hl hw h
  obtain ⟨s', hs⟩ := invariantStateHasNextClock s hl hw
  obtain ⟨t', ht, h'⟩ := h.clockNext hl (step_next_cases hs)
  exact ⟨s', t', hs, ht.step_eq, h'⟩

/-- Two runs from states that look the same go on, and end in states that look the same. -/
theorem SameVisible.run (k : Nat) (h : SameVisible s t) (hl : ControlLegal s) (hw : WrittenBeforeRead s) :
    ∃ s' t' : State, Host.Core.run core k s = .next s' ∧ Host.Core.run core k t = .next t' ∧ SameVisible s' t' := by
  induction k generalizing s t with
  | zero => exact ⟨s, t, rfl, rfl, h⟩
  | succ k ih =>
    obtain ⟨s₁, t₁, hs, ht, h₁⟩ := unwrittenRegistersNeverShow s t hl hw h
    obtain ⟨s', t', hs', ht', h'⟩ :=
      ih h₁ (stepKeepsControlLegal s s₁ hl hs) (stepKeepsWrittenBeforeRead s s₁ hl hw hs)
    exact ⟨s', t', run_succ hs hs', run_succ ht ht', h'⟩

/-- Two states at the beginning of a cycle may differ in every data register. -/
theorem sameVisible_reset_unwritten (inputs : List Input) :
    SameVisible { State.reset with inputs := inputs } { unwritten with inputs := inputs } := by
  constructor <;> simp [State.reset, unwritten]

/-- Settles O55: the two reset states look the same, so their runs do. -/
theorem resetValuesNeverShow : Obligations.ResetValuesNeverShow := by
  intro inputs k
  have hl : ControlLegal { State.reset with inputs := inputs } :=
    .of_cycleStart rfl rfl rfl (by simp [State.reset])
  have hw : WrittenBeforeRead { State.reset with inputs := inputs } := .of_cycleStart rfl rfl rfl
  obtain ⟨s, t, hs, ht, h⟩ := (sameVisible_reset_unwritten inputs).run k hl hw
  exact ⟨s, t, hs, ht, h.events, h.resultPort⟩

end Sys2Proof.Safety
end

section
/-! SUPPORT. Which step writes which register (10_state.md R20, R21); O37, O41. -/

namespace Sys2Proof.Machine

open Sys2Proof.Safety

variable {s t : State}

theorem ResetPhaseNext.frame {rx : Byte} (h : ResetPhaseNext s rx t) :
    t.raw = s.raw ∧ t.coefs = s.coefs ∧ t.pipe = s.pipe ∧ t.outs = s.outs ∧ t.rxh = s.rxh ∧
      (t.linkMode ≠ s.linkMode → s.ph = 0) := by
  cases h with
  | first h0 => simp [h0]
  | second | third => simp

/-- What an enabled phase of a transaction writes: its destination in phase 7, `LINK_MODE` in phases 0 and 6, `RXH` in
phase 6. -/
structure TransactionWrites (dest : Dest) (s t : State) : Prop where
  raw : ∀ d, t.raw.read d ≠ s.raw.read d → d = dest ∧ s.ph = 7
  coefs : t.coefs = s.coefs
  pipe : t.pipe = s.pipe
  outs : t.outs = s.outs
  linkMode : t.linkMode ≠ s.linkMode → s.ph = 0 ∨ s.ph = 6
  rxh : t.rxh ≠ s.rxh → s.ph = 6

theorem TransactionNext.writes {cmd : Word16} {delay : Millis} {dest : Dest}
    (h : TransactionNext cmd delay dest s t) : TransactionWrites dest s t := by
  cases h with
  | reset rx t _ hr =>
    obtain ⟨hraw, hcoefs, hpipe, houts, hrxh, hmode⟩ := hr.frame
    exact ⟨fun d hd => absurd (by rw [hraw]) hd, hcoefs, hpipe, houts, fun hm => .inl (hmode hm),
      fun hx => absurd hrxh hx⟩
  | commandHi | commandLoWait | commandLo | waited => constructor <;> simp
  | responseHi rx _ h6 => constructor <;> simp [h6]
  | responseLo rx hi _ h7 =>
    refine { raw := fun d hd => ⟨?_, h7⟩, coefs := rfl, pipe := rfl, outs := rfl, linkMode := by simp, rxh := by simp }
    by_contra hne
    exact hd (RawWords.read_write_other s.raw _ hne)

/-- A raw register changes only in phase 7 of the step that makes it due. -/
theorem ClockNext.raw_changed {d : Dest} (h : ClockNext s t) (hr : s.input.rst = false)
    (hd : t.raw.read d ≠ s.raw.read d) : s.seq.toNat + 1 = dueAt d ∧ s.ph = 7 := by
  cases h with
  | reset hrst => simp [hr] at hrst
  | xfer _ hc hn =>
    obtain ⟨rfl, h7⟩ := hn.writes.raw d hd
    exact ⟨hc.seq_of_dest, h7⟩
  | _ => exact absurd rfl hd

/-- The other registers change only in the step that R20 names. -/
theorem ClockNext.others_changed (h : ClockNext s t) (hr : s.input.rst = false) :
    (t.coefs ≠ s.coefs → s.seq = 4) ∧ (t.pipe ≠ s.pipe → s.seq = 7) ∧ (t.outs ≠ s.outs → s.seq = 8) ∧
      (t.ph ≠ s.ph → xferStep s.seq = true ∨ s.seq = 9) ∧
      (t.linkMode ≠ s.linkMode → xferStep s.seq = true ∧ (s.ph = 0 ∨ s.ph = 6)) ∧
      (t.rxh ≠ s.rxh → xferStep s.seq = true ∧ s.ph = 6) := by
  cases h with
  | reset hrst => simp [hr] at hrst
  | xfer _ hc hn =>
    have hx := hc.xferStep
    have hw := hn.writes
    exact ⟨fun hne => absurd hw.coefs hne, fun hne => absurd hw.pipe hne, fun hne => absurd hw.outs hne,
      fun _ => .inl hx, fun hne => ⟨hx, hw.linkMode hne⟩, fun hne => ⟨hx, hw.rxh hne⟩⟩
  | holdXfer | holdWait => simp
  | decode _ hq | compute _ hq | report _ hq | waitLoad _ hq | waitEnd _ hq => simp [hq]

/-- Settles O37: the raw registers by the step that makes them due, the others as R20 lists them. -/
theorem onlyTheNamedStepWrites : Obligations.OnlyTheNamedStepWrites := by
  intro s t hr hstep
  have h := step_next_cases hstep
  have raw (d : Dest) (q : BitVec 4) (hq : q.toNat + 1 = dueAt d) (hd : t.raw.read d ≠ s.raw.read d) :
      s.seq = q ∧ s.ph = 7 := by
    obtain ⟨hs, h7⟩ := h.raw_changed hr hd
    exact ⟨BitVec.eq_of_toNat_eq (by omega), h7⟩
  exact ⟨raw .w1 0 rfl, raw .w2 1 rfl, raw .w3 2 rfl, raw .w4 3 rfl, raw .d1 5 rfl, raw .d2 6 rfl, h.others_changed hr⟩

/-- Settles O41: REPORT sets `VALID`, and no other step without reset writes it. -/
theorem validFollowsReport : Obligations.ValidFollowsReport := by
  refine ⟨rfl, fun s t hstep => ⟨fun hr => ?_, fun hr => ?_⟩⟩
  · rw [step_rst hr] at hstep
    cases hstep
    rfl
  · by_cases h8 : s.seq = 8
    · rw [step_report hr h8] at hstep
      obtain ⟨w, m, f, -, -, -, rfl⟩ := execReport_cases hstep
      simp [h8]
    · obtain ⟨-, -, houts, -⟩ := (step_next_cases hstep).others_changed hr
      rw [not_imp_comm.mp houts h8, or_iff_left h8]

end Sys2Proof.Machine
end

section
/-! SUPPORT. What a clock adds to the event history, read off the ports (40_transport.md R100, 43_sequencer.md R215);
O43. -/

namespace Sys2Proof.Machine

open Sys2Proof.Safety

variable {s t : State} {cmd : Word16} {delay : Millis} {dest : Dest}

/-! ### The ports -/

/-- The mode of the exchange at phase `PH` of a transaction (30_encoding.md R86). -/
def phaseMode (ph : BitVec 3) : LinkMode := if ph.toNat < 6 then .cmd else .resp

theorem lkMode_of_lkReq (h : lkReq s = true) : lkMode s = phaseMode s.ph := by
  simp [lkMode, phaseMode, h]

theorem currentCmd_of_xfer (h : microprogram s.seq = some (.xfer cmd delay dest)) : currentCmd s = some cmd := by
  simp only [currentCmd, h]

theorem currentCmd_eq_none (h : s.seq = 4 ∨ s.seq = 7 ∨ s.seq = 8 ∨ s.seq = 9) : currentCmd s = none := by
  rcases h with hq | hq | hq | hq <;> simp only [currentCmd, hq] <;> rfl

theorem lkReq_of_currentCmd (hr : s.input.rst = false) (hc : currentCmd s = some cmd) (n5 : s.ph ≠ 5) :
    lkReq s = true := by
  simpa [lkReq, hr, hc] using n5

theorem lkTx_of_currentCmd (hr : s.input.rst = false) (hc : currentCmd s = some cmd) (n5 : s.ph ≠ 5) :
    lkTx s = phaseByte cmd s.ph := by
  simp [lkTx, lkReq_of_currentCmd hr hc n5, hc]

theorem lkReq_conversionWait (h5 : s.ph = 5) : lkReq s = false := by
  simp [lkReq, h5]

theorem lkReq_of_otherStep (h : s.seq = 4 ∨ s.seq = 7 ∨ s.seq = 8 ∨ s.seq = 9) : lkReq s = false := by
  simp [lkReq, currentCmd_eq_none h]

theorem rptValid_of_ne (h : s.seq ≠ 8) : rptValid s = false := by
  simp only [rptValid, decide_eq_false h, Bool.and_false]

theorem rptValid_of_xferStep (hx : xferStep s.seq = true) : rptValid s = false := by
  obtain ⟨hmicro, -, -⟩ := seq_of_xferStep hx
  exact rptValid_of_ne fun h8 => hmicro (.inr (.inr h8))

/-! ### What a clock adds -/

/-- An enabled phase of a transaction makes its exchange, but for the end of the conversion wait. -/
theorem TransactionNext.events_cases (h : TransactionNext cmd delay dest s t) :
    (s.ph = 5 ∧ t.events = s.events) ∨
      (s.ph ≠ 5 ∧ ∃ tx rx, phaseByte cmd s.ph = some tx ∧ s.input.answer = some rx ∧
        t.events = .exchange (phaseMode s.ph) tx rx :: s.events) := by
  cases h with
  | reset rx t ha hr =>
    refine .inr ?_
    cases hr with
    | first hp | second hp | third hp => rw [hp]; exact ⟨by decide, _, rx, rfl, ha, rfl⟩
  | commandHi rx ha hp | commandLoWait rx ha hp | commandLo rx ha hp | responseHi rx ha hp | responseLo rx _ ha hp =>
    rw [hp]; exact .inr ⟨by decide, _, rx, rfl, ha, rfl⟩
  | waited h5 => exact .inl ⟨h5, rfl⟩

/-- Where an enabled phase of a transaction leads: to the end of its step, or to the next phase, with one exchange more
unless it was the conversion wait; and to phase 7 with the byte received in `RXH`. -/
theorem TransactionNext.ph_cases (h : TransactionNext cmd delay dest s t) :
    t.ph = 0 ∨
      (t.seq = s.seq ∧ exchangesDone t.ph = (if s.ph = 5 then exchangesDone s.ph else exchangesDone s.ph + 1) ∧
        (t.ph = 7 → s.ph = 6 ∧ t.rxh = s.input.answer)) := by
  cases h with
  | reset rx t _ hr =>
    cases hr with
    | first hp | second hp | third hp => simp [hp, exchangesDone]
  | responseLo => exact .inl rfl
  | commandHi rx ha hp | commandLoWait rx ha hp | commandLo rx ha hp | responseHi rx ha hp =>
    simp [hp, ha, exchangesDone]
  | waited hp => simp [hp, exchangesDone]

/-- The event history after a clock, as the ports show it. -/
inductive PortEvents (s : State) : List Event → Prop where
  | quiet : (lkReq s = true → s.input.answer = none) → rptValid s = false → PortEvents s s.events
  | exchange {m : LinkMode} {tx rx : Byte} : lkReq s = true → lkMode s = m → lkTx s = some tx →
      s.input.answer = some rx → rptValid s = false → PortEvents s (.exchange m tx rx :: s.events)
  | report {r : Report} : lkReq s = false → rptValid s = true → rptData s = some r →
      PortEvents s (.report r :: s.events)

theorem ClockNext.portEvents (h : ClockNext s t) : PortEvents s t.events := by
  cases h with
  | reset hr => exact .quiet (by simp [lkReq, hr]) (by simp [rptValid, hr])
  | holdXfer _ hx hh =>
    refine .quiet (fun hreq => ?_) (rptValid_of_xferStep hx)
    rcases hh with ⟨h5, -⟩ | ⟨-, ha⟩
    · simp [lkReq_conversionWait h5] at hreq
    · exact ha
  | xfer hr hc hn =>
    have hv := rptValid_of_xferStep hc.xferStep
    rcases hn.events_cases with ⟨h5, he⟩ | ⟨n5, tx, rx, htx, ha, he⟩
    · rw [he]
      exact .quiet (by simp [lkReq_conversionWait h5]) hv
    · rw [he]
      have hcmd := currentCmd_of_xfer hc.microprogram
      have hreq := lkReq_of_currentCmd hr hcmd n5
      exact .exchange hreq (lkMode_of_lkReq hreq) (by rw [lkTx_of_currentCmd hr hcmd n5, htx]) ha hv
  | report hr h8 hw hm hf =>
    have hv : rptValid s = true := by simp [rptValid, hr, h8]
    exact .report (lkReq_of_otherStep (by simp [h8])) hv (by simp [rptData, hv, hw, hm, hf])
  | decode _ hq | compute _ hq | holdWait _ hq | waitLoad _ hq | waitEnd _ hq =>
    exact .quiet (by simp [lkReq_of_otherStep, hq]) (rptValid_of_ne (by simp [hq]))

/-- Settles O43: a clock adds nothing, an exchange or a report, and the ports say which. -/
theorem portsShowEvents : Obligations.PortsShowEvents := by
  intro s t hstep
  have h := (step_next_cases hstep).portEvents
  generalize t.events = es at h
  cases h with
  | quiet hreq hv =>
    refine ⟨.inl rfl, fun m tx rx => ?_, fun r => by simp [hv]⟩
    have hno : ¬(lkReq s = true ∧ lkMode s = m ∧ lkTx s = some tx ∧ s.input.answer = some rx) := by
      rintro ⟨hq, -, -, ha⟩
      simp [hreq hq] at ha
    simp [hno]
  | exchange hq hm ht ha hv => simp [hq, hm, ht, ha, hv]
  | report hq hv hd => simp [hq, hv, hd]

end Sys2Proof.Machine
end

section
/-! SUPPORT. A transaction on the wire (20_memory.md R62 to R67, 40_transport.md R107): its exchanges one by one in the
order of 30_encoding.md R86, and the bits of their bytes; O52, O5. -/

namespace Sys2Proof.Safety

open Sys2Proof.Machine

variable {s t : State} {cmd : Word16} {delay : Millis} {dest : Dest}

/-! ### The exchanges done so far -/

/-- The exchange of a phase is the one that follows those done before it. -/
theorem sendsOf_phase {ph : BitVec 3} {tx : Byte} (h : phaseByte cmd ph = some tx) :
    (sendsOf cmd)[exchangesDone ph]? = some (phaseMode ph, tx) := by
  have phases : ∀ p : BitVec 3, p = 0 ∨ p = 1 ∨ p = 2 ∨ p = 3 ∨ p = 4 ∨ p = 5 ∨ p = 6 ∨ p = 7 := by decide
  rcases phases ph with rfl | rfl | rfl | rfl | rfl | rfl | rfl | rfl <;> cases h <;> rfl

/-- One more exchange in order. -/
theorem take_sent_cons {es : List Event} {n : Nat} {m : LinkMode} {tx : Byte} (rx : Byte)
    (h : (es.take n).map sent = (((sendsOf cmd).take n).map some).reverse) (hn : (sendsOf cmd)[n]? = some (m, tx)) :
    ((Event.exchange m tx rx :: es).take (n + 1)).map sent =
      (((sendsOf cmd).take (n + 1)).map some).reverse := by
  simp [List.take_add_one (l := sendsOf cmd), hn, h, sent]

/-! ### Every clock keeps the order -/

/-- Outside a transaction nothing is asked. -/
theorem OnTheWire.of_noTransaction (hc : currentCmd s = none) : OnTheWire s where
  sends _ h := by simp [hc] at h
  kept h := by simp [hc] at h

theorem OnTheWire.elapse (h : OnTheWire s) : OnTheWire s.elapse where
  sends := h.sends
  kept := h.kept

theorem OnTheWire.transaction (h : OnTheWire s) (hc : XferAt s.seq cmd delay dest)
    (hn : TransactionNext cmd delay dest s t) : OnTheWire t := by
  rcases hn.ph_cases with h0 | ⟨hq, hp, h7⟩
  · exact .of_transactionStart h0
  have hcur : currentCmd t = currentCmd s := by simp only [currentCmd, hq]
  rcases hn.events_cases with ⟨h5, he⟩ | ⟨n5, tx, rx, htx, ha, he⟩
  · rw [if_pos h5] at hp
    refine ⟨fun c hct => ?_, fun _ hp7 => ?_⟩
    · rw [he, hp]
      exact h.sends c (hcur ▸ hct)
    · simp [(h7 hp7).1] at h5
  · rw [if_neg n5] at hp
    refine ⟨fun c hct => ?_, fun _ hp7 => ?_⟩
    · rw [hcur] at hct
      obtain rfl : cmd = c := by simpa [currentCmd_of_xfer hc.microprogram] using hct
      rw [he, hp]
      exact take_sent_cons rx (h.sends cmd hct) (sendsOf_phase htx)
    · obtain ⟨h6, hrx⟩ := h7 hp7
      rw [h6] at htx he
      cases htx
      exact ⟨rx, s.events, he, hrx.trans ha⟩

/-- Settles O52: a clock holds, goes on inside a transaction, or stands outside of one or at its beginning. -/
theorem stepKeepsWireOrder : Obligations.StepKeepsWireOrder := by
  intro s t hl h hstep
  cases step_next_cases hstep with
  | reset => exact .of_transactionStart rfl
  | holdXfer | holdWait => exact h.elapse
  | xfer _ hc hn => exact h.transaction hc hn
  | decode _ h4 => exact .of_transactionStart (hl.phMicro (.inl h4))
  | compute | report => exact .of_noTransaction (currentCmd_eq_none (by simp))
  | waitLoad _ h9 => exact .of_noTransaction (currentCmd_eq_none (by simp [h9]))
  | waitEnd => exact .of_transactionStart rfl

/-! ### The bits on the wire -/

/-- The bits of a value, the most significant first (20_memory.md R62). -/
def bitsOf {n : Nat} (v : BitVec n) : List Bool := (List.range n).map fun k => v.getLsbD (n - 1 - k)

theorem bitsOf_append {m n : Nat} (a : BitVec m) (b : BitVec n) : bitsOf (a ++ b) = bitsOf a ++ bitsOf b := by
  simp only [bitsOf, List.range_add, List.map_append, List.map_map, BitVec.getLsbD_append]
  congr 1
  · refine List.map_congr_left fun k hk => ?_
    have hk := List.mem_range.mp hk
    rw [if_neg (by omega), show m + n - 1 - k - n = m - 1 - k by omega]
  · refine List.map_congr_left fun k hk => ?_
    have hk := List.mem_range.mp hk
    rw [Function.comp, if_pos (by omega), show m + n - 1 - (m + k) = n - 1 - k by omega]

/-- The bytes of a command, the high one first, are its bits on the wire. -/
theorem wireBits_command (cmd : Word16) : wireBits [hiByte cmd, loByte cmd] = bitsOf cmd :=
  calc wireBits [hiByte cmd, loByte cmd] = bitsOf (hiByte cmd) ++ bitsOf (loByte cmd) := rfl
    _ = bitsOf (wordOfBytes (hiByte cmd) (loByte cmd)) := (bitsOf_append ..).symm
    _ = bitsOf cmd := by rw [wordOfBytes_hi_lo]

/-- The first five bytes of a transaction are the pattern's bits and then the command's (40_transport.md R117). -/
theorem wireBits_sends (cmd : Word16) :
    wireBits [0x15, 0x55, 0x40, hiByte cmd, loByte cmd] = bitsOf ((0x155540 : BitVec 24) ++ cmd) :=
  calc wireBits [0x15, 0x55, 0x40, hiByte cmd, loByte cmd]
      = wireBits [0x15, 0x55, 0x40] ++ wireBits [hiByte cmd, loByte cmd] := rfl
    _ = bitsOf (0x155540 : BitVec 24) ++ bitsOf cmd := by rw [wireBits_command]; rfl
    _ = bitsOf ((0x155540 : BitVec 24) ++ cmd) := (bitsOf_append ..).symm

/-- Settles O5: the answered phase 7 adds the seventh exchange to the six that `OnTheWire` lists. -/
theorem wireBitStream : Obligations.WireBitStream := by
  intro s t cmd delay dest lo h hr hm h7 ha hstep
  have hcmd := currentCmd_of_xfer hm
  have n5 : s.ph ≠ 5 := by rw [h7]; decide
  have hreq := lkReq_of_currentCmd hr hcmd n5
  obtain ⟨-, hexchange, -⟩ := portsShowEvents s t hstep
  have he : t.events = .exchange .resp 0x00 lo :: s.events := (hexchange ..).mpr
    ⟨hreq, by rw [lkMode_of_lkReq hreq, h7]; rfl, by rw [lkTx_of_currentCmd hr hcmd n5, h7]; rfl, ha⟩
  have hsix := h.sends cmd hcmd
  rw [h7] at hsix
  have hseven : (t.events.take 7).map sent = ((sendsOf cmd).map some).reverse := by
    rw [he]
    exact take_sent_cons lo hsix rfl
  refine ⟨[0x15, 0x55, 0x40, hiByte cmd, loByte cmd], [0x00, 0x00], rfl, rfl, ?_, wireBits_sends cmd, rfl⟩
  rw [List.map_reverse, hseven, List.reverse_reverse]
  rfl

end Sys2Proof.Safety
end

section
/-! SUPPORT. The decoder and the encoder as inverses of each other, between bytes and items and between items and
instructions, and the words of 30_encoding.md R81 and R88; O2, O1. -/

namespace Sys2Proof.Laws

variable {bs : List Byte} {it : Item} {i : Instr}

/-! ### Bytes and items -/

/-- A byte below 16 is the value of `SEQ` in its low four bits (30_encoding.md R88). -/
theorem seqByte_setWidth {a : Byte} (h : a.toNat < 16) : (a.extractLsb' 0 4).setWidth 8 = a := by
  apply BitVec.eq_of_toNat_eq
  simp only [BitVec.toNat_setWidth, BitVec.extractLsb'_toNat, Nat.shiftRight_zero]
  omega

theorem seqByte_extract (q : BitVec 4) : (q.setWidth 8).toNat < 16 ∧ (q.setWidth 8).extractLsb' 0 4 = q := by
  revert q; decide

@[simp] theorem itemOfBytes_bytesOfItem (it : Item) : itemOfBytes (bytesOfItem it) = .ok it := by
  cases it with
  | f24 p => simp only [bytesOfItem, itemOfBytes, bytes_eq_pat.mpr ⟨rfl, rfl, rfl⟩]
  | f16c c => simp only [bytesOfItem, itemOfBytes, wordOfBytes_hi_lo]
  | seq q =>
    obtain ⟨hlt, hq⟩ := seqByte_extract q
    simp only [bytesOfItem, itemOfBytes, if_pos hlt, hq]

theorem bytesOfItem_of_itemOfBytes (h : itemOfBytes bs = .ok it) : bs = bytesOfItem it := by
  unfold itemOfBytes at h
  split at h
  case h_1 a b c =>
    cases h
    obtain ⟨ha, hb, hc⟩ := bytes_eq_pat.mp (rfl : a ++ b ++ c = a ++ b ++ c)
    simp only [bytesOfItem, ← ha, ← hb, ← hc]
  case h_2 a b =>
    cases h
    obtain ⟨ha, hb⟩ := wordOfBytes_inj.mp (wordOfBytes_hi_lo (wordOfBytes a b))
    simp only [bytesOfItem, ha, hb]
  case h_3 a =>
    split at h
    case isTrue hlt => cases h; simp only [bytesOfItem, seqByte_setWidth hlt]
    case isFalse => cases h
  case h_4 => cases h

/-- Bytes hold an item exactly if they are its bytes. -/
theorem itemOfBytes_eq_ok : itemOfBytes bs = .ok it ↔ bs = bytesOfItem it :=
  ⟨bytesOfItem_of_itemOfBytes, fun h => h ▸ itemOfBytes_bytesOfItem it⟩

/-! ### Items and instructions -/

theorem roundTrip (i : Instr) : RoundTrip.Statement i := by
  cases i
  exacts [RoundTrip.reset24, RoundTrip.rdcal1, RoundTrip.rdcal2, RoundTrip.rdcal3, RoundTrip.rdcal4, RoundTrip.convd1,
    RoundTrip.convd2, RoundTrip.decode, RoundTrip.compute, RoundTrip.report, RoundTrip.wait]

/-- Every comparison of the decoder is with the encoding of the instruction it then gives. -/
theorem eq_encode_of_decode (h : decode it = .ok i) : it = encode i := by
  cases it with
  | f24 p =>
    simp only [decode, decodeF24] at h
    split_ifs at h with hp
    cases h; subst p; rfl
  | f16c c =>
    simp only [decode, decodeF16C] at h
    split_ifs at h <;> cases h
    all_goals subst c; rfl
  | seq q =>
    simp only [decode, decodeSeq] at h
    split_ifs at h <;> cases h
    all_goals subst q; rfl

/-- An item decodes to an instruction exactly if it is that instruction's encoding. -/
theorem decode_eq_ok : decode it = .ok i ↔ it = encode i :=
  ⟨eq_encode_of_decode, fun h => h ▸ (roundTrip i).1⟩

/-- Settles O2: bytes to items, then items to instructions. -/
theorem decodeExactlyInvertsEncode : Obligations.DecodeExactlyInvertsEncode := by
  refine fun bs i => ⟨fun h => ?_, fun h => h ▸ (roundTrip i).2⟩
  unfold decodeBytes at h
  split at h
  case h_1 it hit => rw [itemOfBytes_eq_ok.mp hit, decode_eq_ok.mp h, encodeBytes]
  case h_2 => cases h

/-- Settles O1: the words are the encodings' bytes, which decode back. -/
theorem tableWordsDecode : Obligations.TableWordsDecode :=
  ⟨(roundTrip .reset24).2, (roundTrip .rdcal1).2, (roundTrip .rdcal2).2, (roundTrip .rdcal3).2, (roundTrip .rdcal4).2,
    (roundTrip .convd1).2, (roundTrip .convd2).2, (roundTrip .decode).2, (roundTrip .compute).2, (roundTrip .report).2,
    (roundTrip .wait).2⟩

end Sys2Proof.Laws
end

section
/-! SUPPORT. The transaction that `SEQ` selects, and the clock that ends it (40_transport.md R105); O56. -/

namespace Sys2Proof.Safety

open Sys2Proof.Machine

variable {s : State} {cmd : Word16} {delay : Millis} {dest : Dest}

theorem xferAt_of_microprogram {q : BitVec 4}
    (h : microprogram q = some (.xfer cmd delay dest)) : XferAt q cmd delay dest := by
  rcases microprogram_cases h with ⟨rfl, hs⟩ | ⟨rfl, hs⟩ | ⟨rfl, hs⟩ | ⟨rfl, hs⟩ | ⟨-, hs⟩ | ⟨rfl, hs⟩ | ⟨rfl, hs⟩ |
    ⟨-, hs⟩ | ⟨-, hs⟩ | ⟨-, hs⟩ <;> cases hs <;> constructor

/-- The command of the transaction in progress is the one that `SEQ` selects. -/
theorem xferAt_of_currentCmd (h : currentCmd s = some cmd) : ∃ delay dest, XferAt s.seq cmd delay dest := by
  unfold currentCmd at h
  split at h
  case h_1 _ d e hm => cases h; exact ⟨d, e, xferAt_of_microprogram hm⟩
  case h_2 => cases h

/-- Settles O56: the answered phase 7 adds the seventh exchange to the six that `OnTheWire` lists, and `RXH` is the byte
that the sixth received. -/
theorem completedTransaction : Obligations.CompletedTransaction := by
  intro s t cmd delay dest lo h hr hm h7 ha hstep
  have hc := xferAt_of_microprogram hm
  have hcmd := currentCmd_of_xfer hm
  have hsix := h.sends cmd hcmd
  obtain ⟨hi, es, he, hrxh⟩ := h.kept (by simp [hcmd]) h7
  rw [step_xfer hr hc, (TransactionNext.responseLo lo hi ha h7 hrxh).transaction_eq hc.isCommand] at hstep
  cases hstep
  rw [h7] at hsix
  exact ⟨take_sent_cons lo hsix rfl, hi, es, by simp [he], by simp⟩

end Sys2Proof.Safety
end

section
/-! SUPPORT. The commands of 30_encoding.md R81: which values they are, that the block issues no other and refuses every
other; O3, O4. -/

namespace Sys2Proof.Safety

open Sys2Proof.Machine Sys2Proof.Laws

variable {c : Word16} {i : Instr}

/-- The instructions that are encoded as a 16-bit command are those of R81's table. -/
theorem f16c_eq_encode : Item.f16c c = encode i ↔ ∃ row ∈ commandRows, row.cmd = c ∧ row.instr = i := by
  constructor
  · intro h
    cases i <;> cases h <;> decide
  · rintro ⟨row, hrow, rfl, rfl⟩
    revert row; decide

theorem f24_eq_encode {p : BitVec 24} : Item.f24 p = encode i ↔ p = 0x155540 ∧ i = .reset24 := by
  cases i <;> simp [encode, resetPattern]

theorem isCommand_iff_decode : isCommand c = true ↔ ∃ i, decode (.f16c c) = .ok i := by
  unfold isCommand decode
  split
  case h_1 i hi => simp [hi]
  case h_2 e he => simp [he]

/-- A command is a value of R81's table. -/
theorem isCommand_iff : isCommand c = true ↔ ∃ row ∈ commandRows, row.cmd = c := by
  simp only [isCommand_iff_decode, decode_eq_ok, f16c_eq_encode]
  exact ⟨fun ⟨_, row, hrow, hc, _⟩ => ⟨row, hrow, hc⟩, fun ⟨row, hrow, hc⟩ => ⟨_, row, hrow, hc, rfl⟩⟩

/-- What a clock runs is selected by `SEQ` and `PH` alone (43_sequencer.md R211). -/
theorem fetch_congr {s t : State} (hq : s.seq = t.seq) (hp : s.ph = t.ph) : fetch s = fetch t := by
  simp only [fetch, fetchItem, hq, hp]

/-- Settles O3: the decoder by what it inverts, the issued commands by the microprogram. -/
theorem commandsCompareAllBits : Obligations.CommandsCompareAllBits := by
  refine ⟨fun c i => decode_eq_ok.trans f16c_eq_encode, fun p i => decode_eq_ok.trans f24_eq_encode,
    fun s t => fetch_congr, fun s cmd h => ?_⟩
  obtain ⟨delay, dest, hc⟩ := xferAt_of_currentCmd h
  exact isCommand_iff.mp hc.isCommand

/-- Settles O4: a value outside the table is no command, and a transaction tests that before it looks at the phase. -/
theorem otherValuesAreRefused : Obligations.OtherValuesAreRefused := by
  intro cmd delay dest s h
  have hno : isCommand cmd = false :=
    Bool.eq_false_iff.mpr fun hc => by
      obtain ⟨row, hrow, hcmd⟩ := isCommand_iff.mp hc
      exact h row hrow hcmd
  rw [transaction, if_pos hno]

end Sys2Proof.Safety
end

section
/-! SUPPORT. The clocks of the seven wire instructions, phase by phase, as 40_transport.md R100 to R116 give them; O9,
O10, O11, O12, O13. -/

namespace Sys2Proof.Machine

open Sys2Proof.Safety

/-- An enabled phase of a row of R81's table is the clock of that row's instruction. -/
theorem exec_of_transactionNext {row : CommandRow} {s t : State} (hrow : row ∈ commandRows)
    (h : TransactionNext row.cmd row.delay row.dest s t) : exec row.instr s = .next t := by
  obtain ⟨hc, he⟩ := exec_commandRow hrow s
  rw [he, h.transaction_eq hc]

/-- Settles O9: an answered clock of RESET24 is the phase that `PH` names. -/
theorem reset24Completes : Obligations.Reset24Completes := fun _ _ ha =>
  ⟨fun h0 => resetPhase_of_next ha (.first h0), fun h1 => resetPhase_of_next ha (.second h1),
    fun h2 => resetPhase_of_next ha (.third h2)⟩

/-- Settles O10: phases 0 to 2 are RESET24's; phase 4 has two ends, by the delay. -/
theorem transactionSendsCommand : Obligations.TransactionSendsCommand := by
  refine fun row hrow s rx ha => ⟨fun hp => ?_, fun h3 => ?_, fun h4 hd => ?_, fun h4 hd => ?_⟩
  · obtain ⟨hc, he⟩ := exec_commandRow hrow s
    rw [he, transaction_lt3 hc hp]
    rfl
  · exact exec_of_transactionNext hrow (.commandHi rx ha h3)
  · exact exec_of_transactionNext hrow (.commandLo rx ha h4 (by simp [hd]))
  · have hpos : 0 < row.delay.toNat := Nat.pos_of_ne_zero fun h0 => hd (BitVec.eq_of_toNat_eq h0)
    exact exec_of_transactionNext hrow (.commandLoWait rx ha h4 hpos)

/-- Settles O11: phase 5 looks at `TIMER` alone. -/
theorem conversionPhaseWaits : Obligations.ConversionPhaseWaits := by
  refine fun row hrow s h5 => ⟨fun hz => exec_of_transactionNext hrow (.waited h5 hz), fun hz => ?_⟩
  obtain ⟨hc, he⟩ := exec_commandRow hrow s
  rw [he, transaction_hold hc (.inl ⟨h5, hz⟩)]

/-- Settles O12: the word written is the two bytes received, the high one first. -/
theorem transactionReadsResponse : Obligations.TransactionReadsResponse := fun _ hrow _ rx ha =>
  ⟨fun h6 => exec_of_transactionNext hrow (.responseHi rx ha h6),
    fun hi h7 hr => ⟨wordOfBytes hi rx, wordOfBytes_toNat hi rx,
      exec_of_transactionNext hrow (.responseLo rx hi ha h7 hr)⟩⟩

/-- Settles O13: every phase but the conversion wait is an exchange. -/
theorem exchangeHoldsUntilAnswered : Obligations.ExchangeHoldsUntilAnswered := by
  refine fun s ha => ⟨onAnswer_none ha, fun row hrow n5 => ?_⟩
  obtain ⟨hc, he⟩ := exec_commandRow hrow s
  rw [he, transaction_hold hc (.inr ⟨n5, ha⟩)]

end Sys2Proof.Machine
end

section
/-! SUPPORT. What the clocks of the wire instructions leave unchanged, when they change `LINK_MODE`, and which received
bytes they discard (40_transport.md R102 to R116); O32, O38, O39. -/

namespace Sys2Proof.Machine

open Sys2Proof.Safety

variable {s t : State} {cmd : Word16} {delay : Millis} {dest : Dest}

/-! ### The frame -/

/-- The phases that write `LINK_MODE` are exchanges. -/
theorem ne_conversion_of_modePhase {p : BitVec 3} (h : p = 0 ∨ p = 6) : p ≠ 5 := by
  revert p; decide

theorem RawWords.ext_read {r r' : RawWords} (h : ∀ d, r.read d = r'.read d) : r = r' := by
  cases r
  cases r'
  congr
  exacts [h .w1, h .w2, h .w3, h .w4, h .d1, h .d2]

/-- Every enabled phase but the end of the conversion wait is an exchange that the link completed. -/
theorem TransactionNext.answered (h : TransactionNext cmd delay dest s t) (n5 : s.ph ≠ 5) :
    s.input.answer.isSome := by
  rcases h.events_cases with ⟨h5, -⟩ | ⟨-, _, _, -, ha, -⟩
  · exact absurd h5 n5
  · simp [ha]

/-- The sequencer, the timer and the environment's record after an enabled phase: `SEQ` changes in phase 7 only, and
`TIMER` beyond the tick only in phase 4 of a transaction with a delay. -/
theorem TransactionNext.sequencing (h : TransactionNext cmd delay dest s t) :
    (t.seq ≠ s.seq → s.ph = 7) ∧ (t.timer ≠ s.elapse.timer → s.ph = 4 ∧ 0 < delay.toNat) ∧
      t.inputs = s.inputs.tail ∧ t.clock = s.clock + 1 := by
  cases h with
  | reset rx t _ hr => cases hr with | first | second | third => simp
  | commandLoWait rx _ h4 hd => simp [h4, hd]
  | responseLo rx hi _ h7 => simp [h7]
  | commandHi | commandLo | waited | responseHi => simp

/-- The seven wire instructions and the destination each may write (40_transport.md R110 to R116). -/
def wireInstrs : List (Instr × Option Dest) :=
  [(.reset24, none), (.rdcal1, some .w1), (.rdcal2, some .w2), (.rdcal3, some .w3), (.rdcal4, some .w4),
    (.convd1, some .d1), (.convd2, some .d2)]

/-- RESET24, or a row of R81's table, where only the two conversions have a delay. -/
theorem wireInstrs_cases : ∀ w ∈ wireInstrs, w = (.reset24, none) ∨ ∃ row ∈ commandRows,
    w = (row.instr, some row.dest) ∧ (0 < row.delay.toNat → row.instr = .convd1 ∨ row.instr = .convd2) := by
  decide

/-- A clock of a wire instruction holds, or is an enabled phase of a transaction with its destination and its delay.
RESET24's phases are those of any transaction. -/
theorem exec_wire_cases {w : Instr × Option Dest} (hw : w ∈ wireInstrs) (h : exec w.1 s = .next t) :
    t = s.elapse ∨ ∃ cmd delay dest, TransactionNext cmd delay dest s t ∧ (s.ph = 7 → w.2 = some dest) ∧
      (0 < delay.toNat → w.1 = .convd1 ∨ w.1 = .convd2) := by
  rcases wireInstrs_cases w hw with rfl | ⟨row, hrow, rfl, hd⟩
  · rcases resetPhase_cases h with ⟨ht, -⟩ | ⟨rx, ha, hr⟩
    · exact .inl ht
    · have hlt := hr.ph_lt
      exact .inr ⟨0, 0, .w1, .reset rx t ha hr, fun h7 => by simp [h7] at hlt, by simp⟩
  · rw [(exec_commandRow hrow s).2] at h
    exact (transaction_cases h).imp And.left fun hn => ⟨_, _, _, hn, fun _ => rfl, hd⟩

/-- Settles O32: each register by the one phase that writes it, which the link must have answered. -/
theorem wireInstructionsFrame : Obligations.WireInstructionsFrame := by
  intro w hw s t h
  rcases exec_wire_cases hw h with rfl | ⟨cmd, delay, dest, hn, hdest, hdelay⟩
  · simp
  have hwrites := hn.writes
  obtain ⟨hseq, htimer, hinputs, hclock⟩ := hn.sequencing
  have answered (p : BitVec 3) (n5 : p ≠ 5) (hp : s.ph = p) : s.ph = p ∧ s.input.answer.isSome :=
    ⟨hp, hn.answered (hp ▸ n5)⟩
  refine ⟨hwrites.coefs, hwrites.pipe, hwrites.outs, fun d hd => ?raw, fun h7 => ⟨?dest, ?seq⟩, fun h6 => ?rxh,
    fun h06 => ?mode, fun h4 => ?timer, ?events, hinputs, hclock⟩
  case raw =>
    by_contra hne
    obtain ⟨rfl, h7⟩ := hwrites.raw d hne
    exact hd (hdest h7)
  case dest =>
    refine RawWords.ext_read fun d => ?_
    by_contra hne
    exact h7 (answered 7 (by decide) (hwrites.raw d hne).2)
  case seq =>
    by_contra hne
    exact h7 (answered 7 (by decide) (hseq hne))
  case rxh =>
    by_contra hne
    exact h6 (answered 6 (by decide) (hwrites.rxh hne))
  case mode =>
    by_contra hne
    have hp := hwrites.linkMode hne
    exact h06 ⟨hp, hn.answered (ne_conversion_of_modePhase hp)⟩
  case timer =>
    by_contra hne
    obtain ⟨hp, hd⟩ := htimer hne
    exact h4 ⟨hp, (answered 4 (by decide) hp).2, hdelay hd⟩
  case events =>
    rcases hn.events_cases with ⟨-, he⟩ | ⟨-, tx, rx, -, -, he⟩
    · exact .inl he
    · exact .inr ⟨_, tx, rx, he⟩

/-! ### `LINK_MODE` -/

/-- A clock of a transaction step holds or is one of its enabled phases. -/
theorem step_xferStep_cases (hr : s.input.rst = false) (hx : xferStep s.seq = true) (h : step s = .next t) :
    t = s.elapse ∨ ∃ cmd delay dest, TransactionNext cmd delay dest s t := by
  obtain ⟨cmd, delay, dest, hc⟩ := xferAt_of_xferStep hx
  rw [step_xfer hr hc] at h
  exact (transaction_cases h).imp And.left fun hn => ⟨cmd, delay, dest, hn⟩

/-- Settles O38: R20's column says where `LINK_MODE` may change; a hold changes nothing, so the exchange completed. -/
theorem modeChangesBeforeExchange : Obligations.ModeChangesBeforeExchange := by
  refine fun s t hr hstep => ⟨fun hne => ?changed, fun rx hx ha h0 => ?cmd, fun rx hx ha h6 => ?resp⟩
  case changed =>
    obtain ⟨-, -, -, -, hmode, -⟩ := (step_next_cases hstep).others_changed hr
    obtain ⟨hx, hp⟩ := hmode hne
    rcases step_xferStep_cases hr hx hstep with rfl | ⟨cmd, delay, dest, hn⟩
    · exact absurd rfl hne
    · exact ⟨hx, hn.answered (ne_conversion_of_modePhase hp), hp⟩
  case cmd =>
    obtain ⟨cmd, delay, dest, hc⟩ := xferAt_of_xferStep hx
    rw [(ClockNext.xfer hr hc (.reset rx _ ha (.first h0))).step_eq] at hstep
    cases hstep
    exact ⟨rfl, rfl⟩
  case resp =>
    obtain ⟨cmd, delay, dest, hc⟩ := xferAt_of_xferStep hx
    rw [(ClockNext.xfer hr hc (.responseHi rx ha h6)).step_eq] at hstep
    cases hstep
    exact ⟨rfl, rfl⟩

/-! ### Discarded bytes -/

/-- The state a sending phase gives is, but for its event, the same for every byte received. -/
theorem exists_sendingPhase (cmd : Word16) (delay : Millis) (dest : Dest) (s : State) (tick : Bool) (rest : List Input)
    (hp : s.ph.toNat ≤ 4) : ∃ next : Byte → State,
      (∀ rx, TransactionNext cmd delay dest { s with inputs := ⟨false, tick, some rx⟩ :: rest } (next rx)) ∧
      ∀ a b, { next a with events := s.events } = { next b with events := s.events } := by
  have phases : ∀ p : BitVec 3, p.toNat ≤ 4 → p = 0 ∨ p = 1 ∨ p = 2 ∨ p = 3 ∨ p = 4 := by decide
  rcases phases s.ph hp with h0 | h1 | h2 | h3 | h4
  · exact ⟨_, fun rx => .reset rx _ rfl (.first h0), fun _ _ => rfl⟩
  · exact ⟨_, fun rx => .reset rx _ rfl (.second h1), fun _ _ => rfl⟩
  · exact ⟨_, fun rx => .reset rx _ rfl (.third h2), fun _ _ => rfl⟩
  · exact ⟨_, fun rx => .commandHi rx rfl h3, fun _ _ => rfl⟩
  · rcases Nat.eq_zero_or_pos delay.toNat with hd | hd
    · exact ⟨_, fun rx => .commandLo rx rfl h4 hd, fun _ _ => rfl⟩
    · exact ⟨_, fun rx => .commandLoWait rx rfl h4 hd, fun _ _ => rfl⟩

/-- Settles O39: both clocks are the same sending phase. -/
theorem commandPhaseBytesAreDiscarded : Obligations.CommandPhaseBytesAreDiscarded := by
  intro s tick a b rest hx hp
  obtain ⟨cmd, delay, dest, hc⟩ := xferAt_of_xferStep hx
  obtain ⟨next, hnext, hsame⟩ := exists_sendingPhase cmd delay dest s tick rest hp
  have hstep (rx : Byte) : step { s with inputs := ⟨false, tick, some rx⟩ :: rest } = .next (next rx) :=
    ClockNext.step_eq (.xfer rfl hc (hnext rx))
  exact ⟨next a, next b, hstep a, hstep b, hsame a b⟩

end Sys2Proof.Machine
end

section
/-! SUPPORT. Runs of several clocks over given inputs: answered clocks of a transaction, and waits that last while
`TIMER` is not 0; O57, O58. -/

namespace Sys2Proof.Machine

open Sys2Proof.Safety

variable {s t : State} {cmd : Word16} {delay : Millis} {dest : Dest} {rest : List Input}

theorem input_of_cons {i : Input} (h : s.inputs = i :: rest) : s.input = i := by
  simp [State.input, h]

/-! ### Answered clocks -/

/-- An answered clock of a transaction step runs the phase that the answer enables, and uses up one input. -/
theorem step_answered {q : BitVec 4} {b : Byte × Bool} {bs : List (Byte × Bool)}
    (hin : s.inputs = answers (b :: bs) ++ rest) (hq : s.seq = q) (hc : XferAt q cmd delay dest)
    (hn : s.input.answer = some b.1 → TransactionNext cmd delay dest s t) :
    step s = .next t ∧ t.inputs = answers bs ++ rest := by
  have hi : s.input = ⟨false, b.2, some b.1⟩ := input_of_cons hin
  have h := hn (by rw [hi])
  obtain ⟨-, -, hinputs, -⟩ := h.sequencing
  exact ⟨(ClockNext.xfer (by rw [hi]) (hq ▸ hc) h).step_eq, by rw [hinputs, hin]; rfl⟩

/-- Settles O57: phases 0 to 4, then 6 and 7, the wait being skipped where the delay is 0. -/
theorem calibrationReadRuns : Obligations.CalibrationReadRuns := by
  intro row hrow s a b c d e f g rest hq h0 hin
  have hcmd : ∃ cmd, XferAt row.1 cmd tCalMs row.2.2.2 ∧ hiByte cmd = row.2.1 ∧ loByte cmd = row.2.2.1 := by
    simp only [List.mem_cons, List.not_mem_nil, or_false] at hrow
    rcases hrow with rfl | rfl | rfl | rfl
    exacts [⟨_, .w1, rfl, rfl⟩, ⟨_, .w2, rfl, rfl⟩, ⟨_, .w3, rfl, rfl⟩, ⟨_, .w4, rfl, rfl⟩]
  obtain ⟨cmd, hc, hhi, hlo⟩ := hcmd
  obtain ⟨step0, in0⟩ := step_answered hin hq hc fun ha => .reset _ _ ha (.first h0)
  obtain ⟨step1, in1⟩ := step_answered in0 (by simpa using hq) hc fun ha => .reset _ _ ha (.second (by simp))
  obtain ⟨step2, in2⟩ := step_answered in1 (by simpa using hq) hc fun ha => .reset _ _ ha (.third (by simp))
  obtain ⟨step3, in3⟩ := step_answered in2 (by simpa using hq) hc fun ha => .commandHi _ ha (by simp)
  obtain ⟨step4, in4⟩ := step_answered in3 (by simpa using hq) hc fun ha => .commandLo _ ha (by simp) rfl
  obtain ⟨step6, in6⟩ := step_answered in4 (by simpa using hq) hc fun ha => .responseHi _ ha (by simp)
  obtain ⟨step7, -⟩ := step_answered in6 (by simpa using hq) hc fun ha => .responseLo _ f.1 ha (by simp) (by simp)
  refine ⟨_, run_succ step0 (run_succ step1 (run_succ step2 (run_succ step3 (run_succ step4 (run_succ step6
    (run_succ step7 rfl)))))), ?_⟩
  simp [hq, hhi, hlo, hin, answers]

/-! ### Waits -/

/-- At step `q`, phase `p`, a clock without reset holds while `TIMER` is not 0. -/
def HoldsWhileTimed (q : BitVec 4) (p : BitVec 3) : Prop :=
  ∀ s : State, s.seq = q → s.ph = p → s.timer ≠ 0 → s.input.rst = false → step s = .next s.elapse

theorem holdsWhileTimed_conversion {q : BitVec 4} (hx : xferStep q = true) : HoldsWhileTimed q 5 := by
  rintro s rfl h5 hz hr
  exact (ClockNext.holdXfer hr hx (.inl ⟨h5, hz⟩)).step_eq

theorem tickCount_cons (i : Input) (is : List Input) : tickCount (i :: is) = tickCount [i] + tickCount is := by
  cases ht : i.tick <;> simp [tickCount, ht, Nat.add_comm]

/-- While `TIMER` runs, a clock takes its tick from it. -/
theorem elapse_timer_toNat (h : s.timer ≠ 0) : s.elapse.timer.toNat + tickCount [s.input] = s.timer.toNat := by
  have hpos : s.timer.toNat ≠ 0 := fun h0 => h (BitVec.eq_of_toNat_eq h0)
  rw [State.elapse_timer, tickTimer_toNat]
  cases ht : s.input.tick
  · simp [tickCount, ht]
  · simp [tickCount, ht]
    omega

/-- Over fewer ticks than `TIMER` a wait only counts them (60_exceptions.md R247, R248). -/
theorem HoldsWhileTimed.run (h : HoldsWhileTimed s.seq s.ph) {is : List Input} (hin : s.inputs = is ++ rest)
    (hr : noReset is = true) (hn : tickCount is < s.timer.toNat) :
    ∃ n : Millis, n.toNat + tickCount is = s.timer.toNat ∧
      Host.Core.run core is.length s =
        .next { s with timer := n, inputs := rest, clock := s.clock + is.length } := by
  induction is generalizing s with
  | nil =>
    rw [List.nil_append] at hin
    subst hin
    exact ⟨s.timer, rfl, rfl⟩
  | cons i is ih =>
    obtain ⟨hri, hris⟩ : i.rst = false ∧ noReset is = true := by simpa [noReset] using hr
    have hi : s.input = i := input_of_cons hin
    have hz : s.timer ≠ 0 := fun h0 => by simp [h0] at hn
    have hstep : step s = .next s.elapse := h s rfl rfl hz (by rw [hi, hri])
    have hcount := tickCount_cons i is
    have htimer : s.elapse.timer.toNat + tickCount [i] = s.timer.toNat := hi ▸ elapse_timer_toNat hz
    obtain ⟨n, hsum, hrun⟩ := ih (s := s.elapse) h (by simp [hin]) hris (by omega)
    refine ⟨n, by omega, run_succ hstep (hrun.trans ?_)⟩
    rw [List.length_cons, State.elapse_clock, Nat.add_assoc, Nat.add_comm 1]
    rfl

/-- At `TIMER = 1` a tick takes it to 0, and the next clock ends the conversion wait (log 4). -/
theorem conversionWait_lastTick {i j : Input} (hx : xferStep s.seq = true) (h5 : s.ph = 5) (h1 : s.timer = 1)
    (hin : s.inputs = i :: j :: rest) (hi : i.tick = true) (hri : i.rst = false) (hrj : j.rst = false) :
    ∃ t : State, Host.Core.run core 2 s = .next t ∧ t.ph = 6 ∧ t.seq = s.seq ∧ t.timer = 0 ∧
      t.linkMode = s.linkMode ∧ t.events = s.events := by
  have hsi : s.input = i := input_of_cons hin
  have hej : s.elapse.input = j := input_of_cons (s := s.elapse) (rest := rest) (by simp [hin])
  have hz : s.elapse.timer = 0 := by simp [hsi, hi, h1, tickTimer]
  have hhold : step s = .next s.elapse :=
    holdsWhileTimed_conversion hx s rfl h5 (by simp [h1]) (by rw [hsi, hri])
  obtain ⟨cmd, delay, dest, hc⟩ := xferAt_of_xferStep hx
  have hend : step s.elapse = .next (s.elapse.elapse.setPh 6) :=
    ClockNext.step_eq (.xfer (by rw [hej, hrj]) hc (.waited h5 hz))
  exact ⟨_, run_succ hhold (run_succ hend rfl), rfl, rfl, elapse_timer_of_zero hz, rfl, rfl⟩

/-- Settles O58: the wait counts down to 1, the last tick to 0, and the next clock ends it. -/
theorem conversionWaitLasts : Obligations.ConversionWaitLasts := by
  intro s is i j rest hx h5 hin hr hn hi
  obtain ⟨hris, hri, hrj⟩ : noReset is = true ∧ i.rst = false ∧ j.rst = false := by
    simpa [noReset, List.all_append] using hr
  obtain ⟨n, hsum, hrun⟩ := HoldsWhileTimed.run (h5 ▸ holdsWhileTimed_conversion hx) hin hris (by omega)
  obtain rfl : n = 1 := BitVec.eq_of_toNat_eq (show n.toNat = 1 by omega)
  obtain ⟨t, hend, ht⟩ := conversionWait_lastTick
    (s := { s with timer := 1, inputs := i :: j :: rest, clock := s.clock + is.length }) hx h5 rfl rfl hi hri hrj
  exact ⟨⟨_, hrun, h5, rfl, rfl, rfl⟩, t, run_add hrun hend, ht⟩

end Sys2Proof.Machine
end

section
/-! SUPPORT. DECODE's clock, and the decoder (41_decoder.md): its masks and shifts as fields cut out of words and
joined, so that re-packing cuts what decoding joined and joins what it cut; O14, O19, O20, O21, O33. -/

namespace Sys2Proof.Machine

open Sys2Proof.Safety

/-! ### DECODE's clock -/

/-- Settles O14: `SEQ` and the six coefficients are all that DECODE writes. -/
theorem decodeCompletes : Obligations.DecodeCompletes := fun _ _ hw => execDecode_eq hw

/-- Settles O33: DECODE's next state differs from the elapsed one in the coefficients and `SEQ` only. -/
theorem decodeFrame : Obligations.DecodeFrame := by
  intro s t h
  obtain ⟨w, -, rfl⟩ := execDecode_cases h
  simp

/-! ### A value of `m + n` bits, cut above its low `n` bits -/

section Fields

variable {j k : Nat} (m n : Nat)

theorem toNat_highField (x : BitVec (m + n)) : (x.extractLsb' n m).toNat = x.toNat / 2 ^ n := by
  have hlt : x.toNat / 2 ^ n < 2 ^ m := Nat.div_lt_of_lt_mul ((Nat.pow_add' 2 m n).symm ▸ x.isLt)
  rw [BitVec.extractLsb'_toNat, Nat.shiftRight_eq_div_pow, Nat.mod_eq_of_lt hlt]

theorem toNat_lowField (x : BitVec k) : (x.extractLsb' 0 n).toNat = x.toNat % 2 ^ n := by
  rw [BitVec.extractLsb'_toNat, Nat.shiftRight_zero]

theorem toNat_joined (a : BitVec m) (b : BitVec n) : (a ++ b).toNat = a.toNat * 2 ^ n + b.toNat := by
  rw [BitVec.toNat_append, shiftLeft_or b.isLt]

/-- A right shift leaves the high field. -/
theorem ushiftRight_eq_highField (x : BitVec (m + n)) : x >>> n = (x.extractLsb' n m).setWidth (m + n) := by
  apply BitVec.eq_of_toNat_eq
  rw [BitVec.toNat_setWidth_of_le (Nat.le_add_right m n), toNat_highField, BitVec.toNat_ushiftRight,
    Nat.shiftRight_eq_div_pow]

/-- A mask of `n` ones leaves the low field. -/
theorem and_mask_eq_lowField (x : BitVec k) (hn : n ≤ k) :
    x &&& BitVec.ofNat k (2 ^ n - 1) = (x.extractLsb' 0 n).setWidth k := by
  have hmask : 2 ^ n - 1 < 2 ^ k :=
    Nat.lt_of_lt_of_le (Nat.sub_lt (Nat.two_pow_pos n) Nat.one_pos) (Nat.pow_le_pow_right Nat.two_pos hn)
  apply BitVec.eq_of_toNat_eq
  rw [BitVec.toNat_setWidth_of_le hn, toNat_lowField, BitVec.toNat_and, BitVec.toNat_ofNat, Nat.mod_eq_of_lt hmask,
    Nat.and_two_pow_sub_one_eq_mod]

theorem setWidth_ushiftRight_eq_highField (x : BitVec (m + n)) (hk : m + n ≤ k) :
    x.setWidth k >>> n = (x.extractLsb' n m).setWidth k := by
  rw [← BitVec.setWidth_ushiftRight hk, ushiftRight_eq_highField, BitVec.setWidth_setWidth (by omega)]

theorem setWidth_and_mask_eq_lowField (x : BitVec j) (hn : n ≤ k) :
    x.setWidth k &&& BitVec.ofNat k (2 ^ n - 1) = (x.extractLsb' 0 n).setWidth k := by
  rw [and_mask_eq_lowField n _ hn, BitVec.extractLsb'_setWidth_of_le (by omega)]

end Fields

/-! ### The six coefficients as bit fields (41_decoder.md R141 to R146) -/

theorem word_and_63 (w : Word16) : w &&& 0x3F = (w.extractLsb' 0 6).setWidth 16 :=
  and_mask_eq_lowField 6 w (by decide)

theorem c1Of_eq (w1 : Word16) : c1Of w1 = w1.extractLsb' 1 15 := BitVec.setWidth_ushiftRight_eq_extractLsb

theorem c2Of_eq (w3 w4 : Word16) : c2Of w3 w4 = w3.extractLsb' 0 6 ++ w4.extractLsb' 0 6 := by
  rw [c2Of, word_and_63, word_and_63, ← BitVec.setWidth_append_eq_shiftLeft_setWidth_or,
    BitVec.setWidth_setWidth_of_le _ (by decide), BitVec.setWidth_eq]

theorem c3Of_eq (w4 : Word16) : c3Of w4 = w4.extractLsb' 6 10 := BitVec.setWidth_ushiftRight_eq_extractLsb

theorem c4Of_eq (w3 : Word16) : c4Of w3 = w3.extractLsb' 6 10 := BitVec.setWidth_ushiftRight_eq_extractLsb

theorem c5Of_eq (w1 w2 : Word16) : c5Of w1 w2 = w1.extractLsb' 0 1 ++ w2.extractLsb' 6 10 := by
  have mask : w1 &&& 0x01 = (w1.extractLsb' 0 1).setWidth 16 := and_mask_eq_lowField 1 w1 (by decide)
  have shift : w2 >>> 6 = (w2.extractLsb' 6 10).setWidth 16 := ushiftRight_eq_highField 10 6 w2
  rw [c5Of, mask, shift, ← BitVec.setWidth_append_eq_shiftLeft_setWidth_or,
    BitVec.setWidth_setWidth_of_le _ (by decide), BitVec.setWidth_eq]

theorem c6Of_eq (w2 : Word16) : c6Of w2 = w2.extractLsb' 0 6 := by
  rw [c6Of, word_and_63, BitVec.setWidth_setWidth_of_le _ (by decide), BitVec.setWidth_eq]

/-- The decoder cuts the words into fields and joins two pairs of them. -/
theorem decodeWords_eq (w : WordVals) : decodeWords w =
    { c1 := w.w1.extractLsb' 1 15
      c2 := w.w3.extractLsb' 0 6 ++ w.w4.extractLsb' 0 6
      c3 := w.w4.extractLsb' 6 10
      c4 := w.w3.extractLsb' 6 10
      c5 := w.w1.extractLsb' 0 1 ++ w.w2.extractLsb' 6 10
      c6 := w.w2.extractLsb' 0 6 } := by
  rw [decodeWords, c1Of_eq, c2Of_eq, c3Of_eq, c4Of_eq, c5Of_eq, c6Of_eq]

/-! ### Re-packing (41_decoder.md R149)

Cutting a joined value gives its two fields, and joining the two fields of a word gives the word. -/

/-- Re-packing cuts the two joined coefficients and joins each word from its two fields. -/
theorem repack_eq (c : CoefVals) : repack c =
    { w1 := c.c1 ++ c.c5.extractLsb' 10 1
      w2 := c.c5.extractLsb' 0 10 ++ c.c6
      w3 := c.c4 ++ c.c2.extractLsb' 6 6
      w4 := c.c3 ++ c.c2.extractLsb' 0 6 } := by
  have high5 : c.c5.setWidth 16 >>> 10 = (c.c5.extractLsb' 10 1).setWidth 16 :=
    setWidth_ushiftRight_eq_highField 1 10 c.c5 (by decide)
  have low5 : c.c5.setWidth 16 &&& 0x3FF = (c.c5.extractLsb' 0 10).setWidth 16 :=
    setWidth_and_mask_eq_lowField 10 c.c5 (by decide)
  have high2 : c.c2.setWidth 16 >>> 6 = (c.c2.extractLsb' 6 6).setWidth 16 :=
    setWidth_ushiftRight_eq_highField 6 6 c.c2 (by decide)
  have low2 : c.c2.setWidth 16 &&& 0x3F = (c.c2.extractLsb' 0 6).setWidth 16 :=
    setWidth_and_mask_eq_lowField 6 c.c2 (by decide)
  simp only [repack, high5, low5, high2, low2, ← BitVec.setWidth_append_eq_shiftLeft_setWidth_or,
    BitVec.setWidth_eq]

theorem repack_decodeWords (w : WordVals) : repack (decodeWords w) = w := by
  rw [decodeWords_eq, repack_eq]
  simp only [BitVec.extractLsb'_append_eq_left, BitVec.extractLsb'_append_eq_right,
    BitVec.extractLsb'_append_extractLsb']

theorem decodeWords_repack (c : CoefVals) : decodeWords (repack c) = c := by
  rw [repack_eq, decodeWords_eq]
  simp only [BitVec.extractLsb'_append_eq_left, BitVec.extractLsb'_append_eq_right,
    BitVec.extractLsb'_append_extractLsb']

/-- Settles O21: what one cuts, the other joins. -/
theorem repackInvertsDecode : Obligations.RepackInvertsDecode := ⟨repack_decodeWords, decodeWords_repack⟩

/-- Settles O20: re-packing is the inverse, and each word range is a field that the decoder kept whole. -/
theorem decoderIsBijection : Obligations.DecoderIsBijection := by
  refine ⟨Function.bijective_iff_has_inverse.mpr ⟨repack, repack_decodeWords, decodeWords_repack⟩, fun w => ?_⟩
  rw [decodeWords_eq]
  simp only [BitVec.extractLsb'_append_eq_left, BitVec.extractLsb'_append_eq_right, and_self]

/-! ### The six coefficients as numbers (41_decoder.md R141 to R146) -/

theorem decodeWords_toNat (w : WordVals) :
    (decodeWords w).c1.toNat = w.w1.toNat / 2 ∧
    (decodeWords w).c2.toNat = w.w3.toNat % 64 * 64 + w.w4.toNat % 64 ∧
    (decodeWords w).c3.toNat = w.w4.toNat / 64 ∧
    (decodeWords w).c4.toNat = w.w3.toNat / 64 ∧
    (decodeWords w).c5.toNat = w.w1.toNat % 2 * 1024 + w.w2.toNat / 64 ∧
    (decodeWords w).c6.toNat = w.w2.toNat % 64 := by
  rw [decodeWords_eq]
  simp only [toNat_joined, toNat_lowField]
  exact ⟨toNat_highField 15 1 w.w1, rfl, toNat_highField 10 6 w.w4, toNat_highField 10 6 w.w3,
    congrArg _ (toNat_highField 10 6 w.w2), rfl⟩

/-- Settles O19: the coefficients are those of `decodeWords`, and the rules' examples are computed. -/
theorem decoderFormulas : Obligations.DecoderFormulas := by
  refine ⟨fun s w hw => ?_, by decide, by decide, by decide⟩
  obtain ⟨h1, h2, h3, h4, h5, h6⟩ := decodeWords_toNat w
  exact ⟨_, decodeWords w, execDecode_eq hw, rfl, c1Of_eq _, h1, c2Of_eq _ _, h2, c3Of_eq _, h3, c4Of_eq _, h4,
    c5Of_eq _ _, h5, c6Of_eq _, h6, rfl, rfl⟩

end Sys2Proof.Machine
end

section
/-! SUPPORT. The laws of the pipeline (42_compensation.md R170 to R182). The second-order correction grows with `C6` and
with the distance of `TEMP` from its centre, so its values at the ends of the ranges bound it everywhere; O27 to O30. -/

namespace Sys2Proof.Machine

/-! ### Floor shifts -/

theorem floorShift_eq_fdiv (a : Int) (k : Nat) : floorShift a k = Int.fdiv a (2 ^ k) :=
  (Int.fdiv_eq_ediv_of_nonneg a (by positivity)).symm

@[simp] theorem floorShift_nonneg {a : Int} {k : Nat} : 0 ≤ floorShift a k ↔ 0 ≤ a :=
  Int.ediv_nonneg_iff_of_pos (by positivity)

@[simp] theorem floorShift_neg {a : Int} {k : Nat} : floorShift a k < 0 ↔ a < 0 := by
  rw [← not_le, floorShift_nonneg, not_le]

theorem floorShift_mono {a b : Int} (k : Nat) (h : a ≤ b) : floorShift a k ≤ floorShift b k :=
  Int.ediv_le_ediv (by positivity) h

theorem floorShift_eq_zero {a : Int} {k : Nat} (h : 0 ≤ a) : floorShift a k = 0 ↔ a < 2 ^ k := by
  rw [floorShift, Int.ediv_eq_iff_of_pos (by positivity)]
  simp [h]

/-! ### The branches (R170) -/

theorem branchOf_low {temp : Int} (h : temp < 200) : branchOf temp = .low := if_pos h

theorem branchOf_high {temp : Int} (h : 400 < temp) : branchOf temp = .high := by
  rw [branchOf, if_neg (by omega), if_pos h]

theorem branchOf_none {temp : Int} (h : 200 ≤ temp) (h' : temp ≤ 400) : branchOf temp = .none := by
  rw [branchOf, if_neg (by omega), if_neg (by omega)]

/-! ### Step 8's `t2` (R171 to R173) -/

theorem t2Prod_low (c6 temp : Int) : t2Prod .low c6 temp = 11 * (c6 + 24) * (200 - temp) ^ 2 := by
  rw [t2Prod, sq]

theorem t2Prod_high (c6 temp : Int) : t2Prod .high c6 temp = 3 * (c6 + 24) * (450 - temp) ^ 2 := by
  rw [t2Prod, sq]

@[simp] theorem t2Of_none (c6 temp : Int) : t2Of .none c6 temp = 0 := rfl

theorem t2Prod_nonneg (b : Branch) {c6 : Int} (h : 0 ≤ c6) (temp : Int) : 0 ≤ t2Prod b c6 temp := by
  cases b with
  | none => exact le_rfl
  | low => rw [t2Prod_low]; positivity
  | high => rw [t2Prod_high]; positivity

theorem t2Of_nonneg (b : Branch) {c6 : Int} (h : 0 ≤ c6) (temp : Int) : 0 ≤ t2Of b c6 temp :=
  floorShift_nonneg.2 (t2Prod_nonneg b h temp)

/-- The product of step 8 grows with `C6` and with the square. -/
theorem squareProd_mono {k c d x y : Int} (hk : 0 ≤ k) (hc : 0 ≤ c) (hcd : c ≤ d) (hxy : |x| ≤ |y|) :
    k * (c + 24) * x ^ 2 ≤ k * (d + 24) * y ^ 2 :=
  mul_le_mul (mul_le_mul_of_nonneg_left (by omega) hk) (sq_le_sq.2 hxy) (sq_nonneg x) (mul_nonneg hk (by omega))

/-- The LOW correction is the greater the colder it is. -/
theorem t2Of_low_le {c d temp l : Int} (hc : 0 ≤ c) (hcd : c ≤ d) (hl : l ≤ temp) (ht : temp ≤ 200) :
    t2Of .low c temp ≤ t2Of .low d l := by
  have hdist : |200 - temp| ≤ |200 - l| := abs_le_abs_of_nonneg (by omega) (by omega)
  apply floorShift_mono
  rw [t2Prod_low, t2Prod_low]
  exact squareProd_mono (by decide) hc hcd hdist

/-- The HIGH correction, centred on 450, is bounded by that of any hotter temperature from 500 on, since 400 to 500 lies
within 50 of the centre. -/
theorem t2Of_high_le {c d temp l : Int} (hc : 0 ≤ c) (hcd : c ≤ d) (ht : 400 ≤ temp) (htl : temp ≤ l) (hl : 500 ≤ l) :
    t2Of .high c temp ≤ t2Of .high d l := by
  have hdist : |450 - temp| ≤ |450 - l| := by
    rw [abs_of_nonpos (by omega : 450 - l ≤ 0), abs_le]
    omega
  apply floorShift_mono
  rw [t2Prod_high, t2Prod_high]
  exact squareProd_mono (by decide) hc hcd hdist

/-! ### Where the correction is zero (R177, R178) -/

@[simp] theorem p2Of_zero (b : Branch) (p : Int) : p2Of b 0 p = 0 := by
  cases b <;> simp [p2Of, p2Prod, floorShift]

theorem secondOrder_of_t2Of_eq_zero {b : Branch} {c6 : Int} {f : FirstOrder} (h : t2Of b c6 f.temp = 0) :
    secondOrder b c6 f = secondOrder .none c6 f := by
  simp [secondOrder, h]

/-- 167 is the lowest temperature at which the greatest `C6` has no LOW correction. -/
theorem t2Of_low_eq_zero {c6 temp : Int} (h0 : 0 ≤ c6) (h63 : c6 ≤ 63) (hl : 167 ≤ temp) (ht : temp ≤ 200) :
    t2Of .low c6 temp = 0 := by
  have hend : t2Of .low 63 167 = 0 := by decide
  exact le_antisymm (hend ▸ t2Of_low_le h0 h63 hl ht) (t2Of_nonneg _ h0 _)

/-- 513 is the highest temperature at which the greatest `C6` has no HIGH correction. -/
theorem t2Of_high_eq_zero {c6 temp : Int} (h0 : 0 ≤ c6) (h63 : c6 ≤ 63) (ht : 400 ≤ temp) (hu : temp ≤ 513) :
    t2Of .high c6 temp = 0 := by
  have hend : t2Of .high 63 513 = 0 := by decide
  exact le_antisymm (hend ▸ t2Of_high_le h0 h63 ht hu (by decide)) (t2Of_nonneg _ h0 _)

theorem t2Of_branchOf_eq_zero {c6 temp : Int} (h0 : 0 ≤ c6) (h63 : c6 ≤ 63) (hl : 167 ≤ temp) (hu : temp ≤ 513) :
    t2Of (branchOf temp) c6 temp = 0 := by
  rcases lt_or_ge temp 200 with hlow | hlow
  · rw [branchOf_low hlow, t2Of_low_eq_zero h0 h63 hl hlow.le]
  rcases lt_or_ge 400 temp with hhigh | hhigh
  · rw [branchOf_high hhigh, t2Of_high_eq_zero h0 h63 hhigh.le hu]
  · rw [branchOf_none hlow hhigh, t2Of_none]

/-- Inside the band every branch gives what NONE gives. -/
theorem secondOrder_inBand {c6 : Int} {f : FirstOrder} (h0 : 0 ≤ c6) (h63 : c6 ≤ 63) (hl : 167 ≤ f.temp)
    (hu : f.temp ≤ 513) : secondOrder (branchOf f.temp) c6 f = secondOrder .none c6 f :=
  secondOrder_of_t2Of_eq_zero (t2Of_branchOf_eq_zero h0 h63 hl hu)

/-- A temperature with a LOW correction whose upper neighbour has none is the greatest with one. -/
theorem isGreatest_t2Of_low {c6 e : Int} (h0 : 0 ≤ c6) (he : e < 200) (hpos : 0 < t2Of .low c6 e)
    (hzero : t2Of .low c6 (e + 1) = 0) : IsGreatest {temp : Int | temp < 200 ∧ 0 < t2Of .low c6 temp} e := by
  refine ⟨⟨he, hpos⟩, fun temp ⟨ht, htpos⟩ => ?_⟩
  by_contra hlt
  have := t2Of_low_le h0 le_rfl (by omega : e + 1 ≤ temp) ht.le
  omega

/-- A temperature with a HIGH correction whose lower neighbour has none is the least with one. -/
theorem isLeast_t2Of_high {c6 e : Int} (h0 : 0 ≤ c6) (he : 500 < e) (hpos : 0 < t2Of .high c6 e)
    (hzero : t2Of .high c6 (e - 1) = 0) : IsLeast {temp : Int | 400 < temp ∧ 0 < t2Of .high c6 temp} e := by
  refine ⟨⟨by omega, hpos⟩, fun temp ⟨ht, htpos⟩ => ?_⟩
  by_contra hlt
  have := t2Of_high_le h0 le_rfl ht.le (by omega : temp ≤ e - 1) (by omega)
  omega

/-- Between the thresholds 400 and 450 the HIGH branch corrects nothing. -/
theorem secondOrder_threshold450 {c6 : Int} (f : FirstOrder) (h0 : 0 ≤ c6) (h63 : c6 ≤ 63) :
    secondOrder (branchOf f.temp) c6 f =
      secondOrder (if f.temp < 200 then .low else if 450 < f.temp then .high else .none) c6 f := by
  split
  case isTrue hlow => rw [branchOf_low hlow]
  case isFalse hlow =>
    split
    case isTrue hhigh => rw [branchOf_high (by omega)]
    case isFalse hhigh => exact secondOrder_inBand h0 h63 (by omega) (by omega)

/-- Settles O27: the correction grows away from its centre, so four evaluated ends decide where it is zero. -/
theorem correctionIsZeroInBand : Obligations.CorrectionIsZeroInBand := by
  refine ⟨fun c6 temp h0 h63 ht => ⟨?_, fun hl => t2Of_low_eq_zero h0 h63 hl ht.le⟩,
    isGreatest_t2Of_low (by decide) (by decide) (by decide) (by decide),
    isGreatest_t2Of_low (by decide) (by decide) (by decide) (by decide),
    fun c6 temp h0 h63 ht => ⟨?_, fun hu => t2Of_high_eq_zero h0 h63 ht.le hu⟩,
    isLeast_t2Of_high (by decide) (by decide) (by decide) (by decide),
    isLeast_t2Of_high (by decide) (by decide) (by decide) (by decide), p2Of_zero,
    fun _ _ h0 h63 => secondOrder_inBand h0 h63, fun _ f h0 h63 => secondOrder_threshold450 f h0 h63⟩
  · rw [t2Of, floorShift_eq_zero (t2Prod_nonneg _ h0 _), t2Prod_low]
  · rw [t2Of, floorShift_eq_zero (t2Prod_nonneg _ h0 _), t2Prod_high]

/-! ### Signs (R179) -/

theorem p2Of_low_nonneg {t2 p : Int} (ht : 0 < t2) : 0 ≤ p2Of .low t2 p ↔ 3500 ≤ p := by
  rw [p2Of, floorShift_nonneg, p2Prod, mul_nonneg_iff_of_pos_left (by omega), sub_nonneg]

theorem p2Of_high_nonneg {t2 p : Int} (ht : 0 < t2) : 0 ≤ p2Of .high t2 p ↔ 10000 ≤ p := by
  rw [p2Of, floorShift_nonneg, p2Prod, mul_nonneg_iff_of_pos_left ht, sub_nonneg]

/-- Settles O28: `T2` is a square times a positive factor, and `P2` has the sign of `P` less its centre. -/
theorem correctionSigns : Obligations.CorrectionSigns := by
  intro b c6 f h0 _ g
  have hnonneg : 0 ≤ g.t2 := t2Of_nonneg b h0 f.temp
  refine ⟨hnonneg, sub_le_self _ hnonneg, fun hz => ?_, ?_, ?_⟩
  · show p2Of b g.t2 f.p = 0
    rw [hz, p2Of_zero]
  · rintro rfl hpos
    exact ⟨(p2Of_low_nonneg hpos).2, fun hp => not_le.1 (mt (p2Of_low_nonneg hpos).1 (not_le.2 hp))⟩
  · rintro rfl hpos
    exact ⟨(p2Of_high_nonneg hpos).2, fun hp => not_le.1 (mt (p2Of_high_nonneg hpos).1 (not_le.2 hp))⟩

/-! ### Monotonicity in `D1` (R180) -/

/-- Steps 6 and 7 are monotone in the product of step 6. -/
theorem pOf_xOf_mono {sens d1 d1' off : Int} (h : sens * (d1 - 7168) ≤ sens * (d1' - 7168)) :
    pOf (xOf sens d1 off) ≤ pOf (xOf sens d1' off) := by
  have hx : xOf sens d1 off ≤ xOf sens d1' off := sub_le_sub_right (floorShift_mono 14 h) off
  exact Int.add_le_add_right (floorShift_mono 5 (by omega)) 2500

/-- Steps 1 to 5 do not read `D1`. -/
theorem firstOrder_sens_off_congr (c : CoefVals) {m n : MeasVals} (h : m.d2 = n.d2) :
    (firstOrder (compIn c m)).sens = (firstOrder (compIn c n)).sens ∧
    (firstOrder (compIn c m)).off = (firstOrder (compIn c n)).off := by
  simp only [firstOrder, compIn, h, and_self]

theorem firstOrder_p (c : CoefVals) (m : MeasVals) : (firstOrder (compIn c m)).p =
    pOf (xOf (firstOrder (compIn c m)).sens m.d1.toNat (firstOrder (compIn c m)).off) := by
  simp only [firstOrder, compIn]

/-- Settles O29: `D1` enters in the product of step 6 only, where the sign of `SENS` gives the direction. -/
theorem pressureIsMonotoneInD1 : Obligations.PressureIsMonotoneInD1 := by
  intro c m n hd2 hd1
  obtain ⟨hsens, hoff⟩ := firstOrder_sens_off_congr c hd2
  have hd : (m.d1.toNat : Int) - 7168 ≤ n.d1.toNat - 7168 := by omega
  simp only [firstOrder_p c m, firstOrder_p c n, ← hsens, ← hoff, true_and]
  refine ⟨fun hpos => ?_, fun hneg => ?_, fun hzero => ?_⟩
  · exact pOf_xOf_mono (mul_le_mul_of_nonneg_left hd hpos.le)
  · exact pOf_xOf_mono (mul_le_mul_of_nonpos_left hd hneg.le)
  · rw [hzero, xOf, xOf, zero_mul, zero_mul]

/-! ### Width (R181, R182) -/

theorem inRange_of_bounds {w : Nat} {v : Int} (hw : 35 ≤ w) (h : -(2 ^ 34) ≤ v ∧ v < 2 ^ 34) : inRange w v = true := by
  have hpow : (2 : Int) ^ 34 ≤ 2 ^ (w - 1) := pow_le_pow_right₀ (by decide) (by omega)
  exact decide_eq_true ⟨(neg_le_neg hpow).trans h.1, h.2.trans_le hpow⟩

/-- Settles O30: R181's intervals lie in 35 bits; the coldest input overflows 34 bits, V-C12's 32. -/
theorem thirtyFiveBitsSuffice : Obligations.ThirtyFiveBitsSuffice := by
  refine ⟨fun w c m hw => ?_, ⟨⟨0, 0, 0, 0, 2047, 63⟩, ⟨0, 0⟩, by decide⟩, by decide⟩
  rw [overflows, List.any_eq_false]
  intro v hv
  simp [inRange_of_bounds hw (chainValues_bounds (compIn_inRange c m) hv)]

/-! ### The ranges of step 8, branch by branch (R171, R172)

In the HIGH branch the first-order range of `P` and the `T2` of the hottest input give the range of `P2`. In the LOW
branch `DT` is negative, which narrows `SENS`, `OFF` and so `P`. -/

theorem dt_neg_of_cold {dt c6 : Int} (h6 : 0 ≤ c6) (h : tempOf dt c6 < 200) : dt < 0 := by
  have hprod : dt * (c6 + 50) < 0 := by
    rw [← floorShift_neg (k := 10)]
    unfold tempOf at h
    omega
  exact neg_of_mul_neg_left hprod (by omega)

theorem sensOf_cold {dt c1 c3 : Int} (h : -36600 ≤ dt ∧ dt < 0) (h1 : 0 ≤ c1 ∧ c1 ≤ 32767) (h3 : 0 ≤ c3 ∧ c3 ≤ 1023) :
    -11989 ≤ sensOf c1 c3 dt ∧ sensOf c1 c3 dt ≤ 57343 := by
  have hprod := mul_bounds (u := 0) h.1 h.2.le h3.1 h3.2 (by decide) le_rfl
  rw [mul_comm dt] at hprod
  unfold sensOf floorShift
  generalize c3 * dt = q at *
  omega

theorem offOf_cold {dt c2 c4 : Int} (h : -36600 ≤ dt ∧ dt < 0) (h2 : 0 ≤ c2 ∧ c2 ≤ 4095) (h4 : 0 ≤ c4 ∧ c4 ≤ 1023) :
    -4567 ≤ offOf c2 c4 dt ∧ offOf c2 c4 dt ≤ 20955 := by
  have hprod := mul_bounds (a := c4 - 512) (l := -512) (u := 511) (b := -dt) (n := 36600) (by omega) (by omega) (by omega)
    (by omega) (by decide) (by decide)
  rw [mul_neg] at hprod
  unfold offOf floorShift
  generalize (c4 - 512) * dt = q at *
  omega

/-- `SENS * (D1 - 7168)` in the cold: its ends are the corners with the greatest `D1`. -/
theorem xProd_cold {sens d1 : Int} (h : -11989 ≤ sens ∧ sens ≤ 57343) (h1 : 0 ≤ d1 ∧ d1 ≤ 65535) :
    -699761963 ≤ sens * (d1 - 7168) ∧ sens * (d1 - 7168) ≤ 3346938881 := by
  obtain ⟨hl, hu⟩ := h
  obtain ⟨dl, du⟩ := h1
  constructor <;> nlinarith [mul_nonneg (sub_nonneg.2 hl) (sub_nonneg.2 dl), mul_nonneg (sub_nonneg.2 hu)
    (sub_nonneg.2 dl), mul_nonneg (sub_nonneg.2 hl) (sub_nonneg.2 du), mul_nonneg (sub_nonneg.2 hu) (sub_nonneg.2 du)]

theorem pOf_xOf_cold {sens d1 off : Int} (hs : -11989 ≤ sens ∧ sens ≤ 57343) (h1 : 0 ≤ d1 ∧ d1 ≤ 65535)
    (ho : -4567 ≤ off ∧ off ≤ 20955) : -17396 ≤ pOf (xOf sens d1 off) ∧ pOf (xOf sens d1 off) ≤ 67764 := by
  have := xProd_cold hs h1
  unfold pOf xOf floorShift
  generalize sens * (d1 - 7168) = q at *
  omega

theorem firstOrder_p_cold {i : CompIn} (h : i.InRange) (ht : (firstOrder i).temp < 200) :
    -17396 ≤ (firstOrder i).p ∧ (firstOrder i).p ≤ 67764 := by
  have hdt : -36600 ≤ (firstOrder i).dt ∧ (firstOrder i).dt < 0 :=
    ⟨(firstOrder_inRange h).dt.1, dt_neg_of_cold h.c6.1 ht⟩
  exact pOf_xOf_cold (sensOf_cold hdt h.c1 h.c3) h.d1 (offOf_cold hdt h.c2 h.c4)

theorem p2Of_low_bounds {t2 p : Int} (ht : 0 ≤ t2 ∧ t2 ≤ 14888) (hp : -17396 ≤ p ∧ p ≤ 67764) :
    -56965 ≤ p2Of .low t2 p ∧ p2Of .low t2 p ≤ 175188 := by
  have hprod := mul_bounds (a := p - 3500) (l := -20896) (u := 64264) (b := 3 * t2) (n := 44664) (by omega) (by omega)
    (by omega) (by omega) (by decide) (by decide)
  rw [mul_comm (p - 3500)] at hprod
  simp only [p2Of, p2Prod, floorShift]
  omega

theorem p2Of_high_bounds {t2 p : Int} (ht : 0 ≤ t2 ∧ t2 ≤ 5616) (hp : -18414 ≤ p ∧ p ≤ 118500) :
    -19480 ≤ p2Of .high t2 p ∧ p2Of .high t2 p ≤ 74381 := by
  have hprod := mul_bounds (a := p - 10000) (l := -28414) (u := 108500) (b := t2) (n := 5616) (by omega) (by omega)
    ht.1 ht.2 (by decide) (by decide)
  rw [mul_comm (p - 10000)] at hprod
  simp only [p2Of, p2Prod, floorShift]
  omega

theorem t2Of_high_bounds {c6 temp : Int} (h6 : 0 ≤ c6 ∧ c6 ≤ 63) (hl : 400 < temp) (hu : temp ≤ 5200) :
    0 ≤ t2Of .high c6 temp ∧ t2Of .high c6 temp ≤ 5616 := by
  have hend : t2Of .high 63 5200 = 5616 := by decide
  exact ⟨t2Of_nonneg _ h6.1 _, hend ▸ t2Of_high_le h6.1 h6.2 hl.le hu (by decide)⟩

end Sys2Proof.Machine
end

section
/-! SUPPORT. COMPUTE's clock: what it writes, and that its registers hold the exact integers of the pipeline
(42_compensation.md R160 to R177, R183); O15, O22 to O26, O31, O34. -/

namespace Sys2Proof.Machine

open Sys2Proof.Safety

/-! ### COMPUTE's clock -/

/-- Settles O15: the pipeline registers and `SEQ` are all that COMPUTE writes. -/
theorem computeCompletes : Obligations.ComputeCompletes := fun _ _ _ hc hm =>
  ⟨_, pipeWritten_pipeOf _ _ _, execCompute_eq hc hm⟩

/-- Settles O34: COMPUTE's next state differs from the elapsed one in the pipeline registers and `SEQ` only. -/
theorem computeFrame : Obligations.ComputeFrame := by
  intro s t h
  obtain ⟨c, m, -, -, rfl⟩ := execCompute_cases h
  simp

theorem RawWords.meas_congr {r r' : RawWords} (h1 : r.d1 = r'.d1) (h2 : r.d2 = r'.d2) : r.meas = r'.meas := by
  rw [RawWords.meas, RawWords.meas, h1, h2]

/-- Settles O31: the registers written are a function of the coefficients and the measurements read. -/
theorem computeIsDeterministic : Obligations.ComputeIsDeterministic := by
  intro s s' t t' hcoefs h1 h2 ht ht'
  obtain ⟨c, m, hc, hm, rfl⟩ := execCompute_cases ht
  obtain ⟨c', m', hc', hm', rfl⟩ := execCompute_cases ht'
  rw [hcoefs, hc'] at hc
  rw [RawWords.meas_congr h1 h2, hm'] at hm
  cases hc
  cases hm
  rfl

/-- The integers COMPUTE leaves in the pipeline registers. -/
def computedInts (c : CoefVals) (m : MeasVals) : PipeInts :=
  let f := firstOrder (compIn c m)
  let g := compensate c m
  { ut1 := f.ut1, dt := f.dt, temp := f.temp, off := f.off, sens := f.sens, x := f.x, p := f.p,
    br := (branchOf f.temp).code, t2 := g.t2, p2 := g.p2, tempFin := g.tempFin, pFin := g.pFin }

/-- The registers are wide enough for the chain, so they hold its integers (R161). -/
theorem pipeOf_holdsInts (c : CoefVals) (m : MeasVals) :
    HoldsInts (pipeOf (branchOf (firstOrder (compIn c m)).temp).code (firstOrder (compIn c m)) (compensate c m))
      (computedInts c m) := by
  have exact : ∀ v ∈ chainValues (branchOf (firstOrder (compIn c m)).temp) (compIn c m),
      some (BitVec.ofInt 64 v).toInt = some v := fun v hv =>
    congrArg some (toInt_ofInt_acc (chainValues_bounds (compIn_inRange c m) hv))
  constructor
  case br => rfl
  all_goals exact exact _ (by simp [chainValues, compensate])

/-- COMPUTE's clock, seen through the integers its registers hold. -/
theorem exec_compute_holdsInts {s : State} {c : CoefVals} {m : MeasVals} (hc : s.coefs.vals = some c)
    (hm : s.raw.meas = some m) : ∃ t, exec .compute s = .next t ∧ HoldsInts t.pipe (computedInts c m) :=
  ⟨_, execCompute_eq hc hm, pipeOf_holdsInts c m⟩

/-! ### The registers after COMPUTE -/

/-- Settles O22: the chain's functions are the rules' formulas, and R181's intervals are the rules' ranges. -/
theorem firstOrderRegisters : Obligations.FirstOrderRegisters := by
  intro s c m hc hm
  obtain ⟨t, ht, hv⟩ := exec_compute_holdsInts hc hm
  obtain ⟨hut1, hdt, htemp, hoff, hsens, hx, hp⟩ := firstOrder_inRange (compIn_inRange c m)
  refine ⟨t, computedInts c m, ht, hv, rfl, rfl, ?_, ?_, ?_, ?_, ?_, hut1, hdt, htemp, hoff, hsens, hx, hp⟩ <;>
    rw [← floorShift_eq_fdiv] <;> rfl

theorem computedInts_br_low {c : CoefVals} {m : MeasVals} (h : (computedInts c m).temp < 200) :
    (computedInts c m).br = 0b01 := congrArg Branch.code (branchOf_low h)

theorem computedInts_br_high {c : CoefVals} {m : MeasVals} (h : 400 < (computedInts c m).temp) :
    (computedInts c m).br = 0b10 := congrArg Branch.code (branchOf_high h)

theorem computedInts_br_none {c : CoefVals} {m : MeasVals} (h : 200 ≤ (computedInts c m).temp)
    (h' : (computedInts c m).temp ≤ 400) : (computedInts c m).br = 0b00 := congrArg Branch.code (branchOf_none h h')

/-- Settles O23: `BR` is written with the code of `branchOf TEMP`. -/
theorem branchSelection : Obligations.BranchSelection := by
  intro s c m hc hm
  obtain ⟨t, ht, hv⟩ := exec_compute_holdsInts hc hm
  exact ⟨t, computedInts c m, ht, hv, computedInts_br_low, computedInts_br_high, computedInts_br_none⟩

theorem c6_bounds (c : CoefVals) : (0 : Int) ≤ c.c6.toNat ∧ (c.c6.toNat : Int) ≤ 63 := by
  have := c.c6.isLt
  omega

theorem computedInts_t2 (c : CoefVals) (m : MeasVals) :
    (computedInts c m).t2 = t2Of (branchOf (computedInts c m).temp) c.c6.toNat (computedInts c m).temp := rfl

theorem computedInts_p2 (c : CoefVals) (m : MeasVals) :
    (computedInts c m).p2 = p2Of (branchOf (computedInts c m).temp) (computedInts c m).t2 (computedInts c m).p := rfl

theorem computedInts_inBand {c : CoefVals} {m : MeasVals} (hl : 167 ≤ (computedInts c m).temp)
    (hu : (computedInts c m).temp ≤ 513) : (computedInts c m).t2 = 0 ∧ (computedInts c m).p2 = 0 := by
  obtain ⟨h0, h63⟩ := c6_bounds c
  have ht2 : (computedInts c m).t2 = 0 := t2Of_branchOf_eq_zero h0 h63 hl hu
  exact ⟨ht2, by rw [computedInts_p2, ht2, p2Of_zero]⟩

/-- Settles O26: the four boundaries lie in the band without correction. -/
theorem boundariesAreUncorrected : Obligations.BoundariesAreUncorrected := by
  intro s c m hc hm
  obtain ⟨t, ht, hv⟩ := exec_compute_holdsInts hc hm
  refine ⟨t, computedInts c m, ht, hv, fun h => ?_, fun h => ?_, fun h => ?_⟩
  · exact ⟨computedInts_br_none (by omega) (by omega), computedInts_inBand (by omega) (by omega)⟩
  · exact ⟨computedInts_br_low (by omega), computedInts_inBand (by omega) (by omega)⟩
  · exact ⟨computedInts_br_high (by omega), computedInts_inBand (by omega) (by omega)⟩

/-- Settles O25: `T2` is not negative, and the corrected values lie within the chain's ranges. -/
theorem correctedRegisters : Obligations.CorrectedRegisters := by
  intro s c m hc hm
  obtain ⟨t, ht, hv⟩ := exec_compute_holdsInts hc hm
  have hi := compIn_inRange c m
  have hf := firstOrder_inRange hi
  have ht2 : 0 ≤ (computedInts c m).t2 ∧ (computedInts c m).t2 ≤ 14888 := t2Of_bounds hi.c6 hf.temp rfl
  have hp2 : -119479 ≤ (computedInts c m).p2 ∧ (computedInts c m).p2 ≤ 627000 := p2Of_bounds ht2 hf.p
  have htemp : -3839 ≤ (computedInts c m).temp ∧ (computedInts c m).temp ≤ 5200 := hf.temp
  have hp : -18414 ≤ (computedInts c m).p ∧ (computedInts c m).p ≤ 118500 := hf.p
  have htf : (computedInts c m).tempFin = (computedInts c m).temp - (computedInts c m).t2 := rfl
  have hpf : (computedInts c m).pFin = (computedInts c m).p - (computedInts c m).p2 := rfl
  exact ⟨t, computedInts c m, ht, hv, htf, hpf, by omega⟩

/-- The LOW branch's registers (R171). -/
theorem computedInts_low {c : CoefVals} {m : MeasVals} (h : (computedInts c m).temp < 200) :
    (computedInts c m).t2 = Int.fdiv (11 * (c.c6.toNat + 24) * (200 - (computedInts c m).temp) ^ 2) (2 ^ 20) ∧
    (computedInts c m).p2 = Int.fdiv (3 * (computedInts c m).t2 * ((computedInts c m).p - 3500)) (2 ^ 14) ∧
    0 ≤ (computedInts c m).t2 ∧ (computedInts c m).t2 ≤ 14888 ∧
    -56965 ≤ (computedInts c m).p2 ∧ (computedInts c m).p2 ≤ 175188 := by
  have hi := compIn_inRange c m
  have ht2 : 0 ≤ (computedInts c m).t2 ∧ (computedInts c m).t2 ≤ 14888 :=
    t2Of_bounds hi.c6 (firstOrder_inRange hi).temp rfl
  have hp2 := p2Of_low_bounds ht2 (firstOrder_p_cold hi h)
  have et2 := computedInts_t2 c m
  have ep2 := computedInts_p2 c m
  rw [branchOf_low h] at et2 ep2
  refine ⟨?_, ?_, ht2.1, ht2.2, ep2 ▸ hp2⟩
  · rw [← t2Prod_low, ← floorShift_eq_fdiv, et2, t2Of]
  · rw [← floorShift_eq_fdiv, ep2, p2Of, p2Prod]

/-- The HIGH branch's registers (R172). -/
theorem computedInts_high {c : CoefVals} {m : MeasVals} (h : 400 < (computedInts c m).temp) :
    (computedInts c m).t2 = Int.fdiv (3 * (c.c6.toNat + 24) * (450 - (computedInts c m).temp) ^ 2) (2 ^ 20) ∧
    (computedInts c m).p2 = Int.fdiv ((computedInts c m).t2 * ((computedInts c m).p - 10000)) (2 ^ 13) ∧
    0 ≤ (computedInts c m).t2 ∧ (computedInts c m).t2 ≤ 5616 ∧
    -19480 ≤ (computedInts c m).p2 ∧ (computedInts c m).p2 ≤ 74381 := by
  have hf := firstOrder_inRange (compIn_inRange c m)
  have et2 := computedInts_t2 c m
  have ep2 := computedInts_p2 c m
  rw [branchOf_high h] at et2 ep2
  have ht2 := et2 ▸ t2Of_high_bounds (c6_bounds c) h hf.temp.2
  refine ⟨?_, ?_, ht2.1, ht2.2, ep2 ▸ p2Of_high_bounds ht2 hf.p⟩
  · rw [← t2Prod_high, ← floorShift_eq_fdiv, et2, t2Of]
  · rw [← floorShift_eq_fdiv, ep2, p2Of, p2Prod]

/-- Settles O24: the branch's formulas on the first-order values, in the branch's ranges. -/
theorem secondOrderRegisters : Obligations.SecondOrderRegisters := by
  intro s c m hc hm
  obtain ⟨t, ht, hv⟩ := exec_compute_holdsInts hc hm
  refine ⟨t, computedInts c m, ht, hv, fun h => ?_, fun h => ?_, fun h h' => ?_⟩
  · exact ⟨computedInts_br_low h, computedInts_low h⟩
  · exact ⟨computedInts_br_high h, computedInts_high h⟩
  · exact ⟨computedInts_br_none h h', computedInts_inBand (by omega) (by omega)⟩

end Sys2Proof.Machine
end

section
/-! SUPPORT. The data of a cycle, from the raw words to the report (43_sequencer.md R219): which clocks leave it as it is,
and what DECODE, COMPUTE and REPORT add to it; O53. -/

namespace Sys2Proof.Safety

open Sys2Proof.Machine

variable {s t : State} {cmd : Word16} {delay : Millis} {dest : Dest}

/-- At the beginning of a cycle only the reports of the past count. -/
theorem DataFlow.of_seq_zero (hq : s.seq = 0) (hr : ∀ r, Event.report r ∈ s.events → ExactReport r) : DataFlow s where
  coefs h := by simp [hq] at h
  pipe h := by simp [hq] at h
  reports := hr

/-- A clock that leaves the step and the data, and reports nothing. -/
theorem DataFlow.of_sameData (h : DataFlow s) (hseq : t.seq = s.seq) (hraw : t.raw = s.raw) (hcoefs : t.coefs = s.coefs)
    (hpipe : t.pipe = s.pipe) (hr : ∀ r, Event.report r ∈ t.events → Event.report r ∈ s.events) : DataFlow t where
  coefs := by rw [hseq, hraw, hcoefs]; exact h.coefs
  pipe := by rw [hseq, hraw, hpipe]; exact h.pipe
  reports r hm := h.reports r (hr r hm)

theorem DataFlow.elapse (h : DataFlow s) : DataFlow s.elapse := { h with }

/-! ### Transactions -/

/-- What is written after the calibration words leaves them. -/
theorem words_write (r : RawWords) (v : Word16) (h : 5 ≤ dueAt dest) : (r.write dest v).words = r.words := by
  cases dest with
  | w1 | w2 | w3 | w4 => exact absurd h (by decide)
  | d1 | d2 => rfl

/-- Phase 7 writes a calibration word before DECODE has run, or a measurement before COMPUTE has. -/
theorem DataFlow.transaction (h : DataFlow s) (hc : XferAt s.seq cmd delay dest)
    (hn : TransactionNext cmd delay dest s t) : DataFlow t := by
  cases hn with
  | reset rx t _ hr => cases hr with | first | second | third => exact h.of_sameData rfl rfl rfl rfl (by simp)
  | commandHi | commandLoWait | commandLo | waited | responseHi => exact h.of_sameData rfl rfl rfl rfl (by simp)
  | responseLo rx hi =>
    obtain ⟨hs, hq, n4⟩ := hc.seq_succ
    have hdue := hc.seq_of_dest
    refine ⟨fun h5 => ?coefs, fun h8 => ?pipe, fun r hr => h.reports r (by simpa using hr)⟩
    case coefs =>
      rw [State.setSeq_seq, hs] at h5
      obtain ⟨w, hw, hcoefs⟩ := h.coefs (by omega)
      exact ⟨w, (words_write s.raw _ (by omega)).trans hw, hcoefs⟩
    case pipe =>
      rw [State.setSeq_seq, hs] at h8
      omega

/-! ### COMPUTE and REPORT -/

/-- What COMPUTE leaves in `TEMP_FIN` and `P_FIN`. -/
theorem pipeOf_final (c : CoefVals) (m : MeasVals) (br : BitVec 2) (f : FirstOrder) :
    ∃ t p, (pipeOf br f (compensate c m)).tempFin = some t ∧ (pipeOf br f (compensate c m)).pFin = some p ∧
      t.toInt = (compensate c m).tempFin ∧ p.toInt = (compensate c m).pFin := by
  have hv := pipeOf_holdsInts c m
  exact ⟨_, _, rfl, rfl, Option.some.inj hv.tempFin, Option.some.inj hv.pFin⟩

/-- After DECODE, COMPUTE reads the decoder's coefficients of the words held. -/
theorem DataFlow.eq_decodeWords {c : CoefVals} (h : DataFlow s) (hq : 5 ≤ s.seq.toNat) (hc : s.coefs.vals = some c) :
    ∃ w, s.raw.words = some w ∧ c = decodeWords w ∧ s.coefs = (decodeWords w).regs := by
  obtain ⟨w, hw, hcoefs⟩ := h.coefs hq
  rw [hcoefs, CoefVals.regs_vals] at hc
  exact ⟨w, hw, (Option.some.inj hc).symm, hcoefs⟩

/-- After COMPUTE, REPORT reads results that are those of the words it reads. -/
theorem DataFlow.exactReport {w : WordVals} {m : MeasVals} {f : FinVals} (h : DataFlow s) (hq : 8 ≤ s.seq.toNat)
    (hw : s.raw.words = some w) (hm : s.raw.meas = some m) (hf : s.pipe.fin = some f) :
    ExactReport (reportOf w m f) := by
  obtain ⟨w', m', t, p, hw', hm', ht, hp, htemp, hpres⟩ := h.pipe hq
  obtain ⟨hft, hfp⟩ := Pipe.fin_eq_some.mp hf
  obtain rfl : w' = w := Option.some.inj (hw'.symm.trans hw)
  obtain rfl : m' = m := Option.some.inj (hm'.symm.trans hm)
  obtain rfl : t = f.temp := Option.some.inj (ht.symm.trans hft)
  obtain rfl : p = f.pres := Option.some.inj (hp.symm.trans hfp)
  exact ⟨htemp, hpres⟩

/-- Settles O53: DECODE makes the coefficients those of the words, COMPUTE the results those of the coefficients, and
REPORT reads both. -/
theorem stepKeepsReportsExact : Obligations.StepKeepsReportsExact := by
  intro s t _ h hstep
  cases step_next_cases hstep with
  | reset => exact .of_seq_zero rfl h.reports
  | holdXfer | holdWait => exact h.elapse
  | xfer _ hc hn => exact h.transaction hc hn
  | @decode w _ _ hw => exact ⟨fun _ => ⟨w, hw, rfl⟩, by simp, h.reports⟩
  | @compute c m _ h7 hc hm =>
    obtain ⟨w, hw, rfl, hcoefs⟩ := h.eq_decodeWords (by simp [h7]) hc
    obtain ⟨temp, pres, hfin⟩ := pipeOf_final (decodeWords w) m _ _
    exact ⟨fun _ => ⟨w, hw, hcoefs⟩, fun _ => ⟨w, m, temp, pres, hw, hm, hfin⟩, h.reports⟩
  | report _ h8 hw hm hf =>
    refine ⟨fun _ => h.coefs (by simp [h8]), fun _ => h.pipe (by simp [h8]), fun r hr => ?_⟩
    rcases List.mem_cons.mp hr with hnew | hold
    · cases hnew
      exact h.exactReport (by simp [h8]) hw hm hf
    · exact h.reports r hold
  | waitLoad => exact h.of_sameData rfl rfl rfl rfl fun _ => id
  | waitEnd => exact .of_seq_zero rfl h.reports

end Sys2Proof.Safety
end

section
/-! SUPPORT. What `SEQ` and `PH` fetch and a clock runs (43_sequencer.md R210, R211); O6, O7. -/

namespace Sys2Proof.Machine

open Sys2Proof.Safety

variable {s : State} {cmd : Word16} {delay : Millis} {dest : Dest}

theorem fetch_of_fetchItem {it : Item} {i : Instr} (hitem : fetchItem s = some it) (hi : decode it = .ok i) :
    fetch s = .ok i := by
  simp only [fetch, hitem, hi]

/-- A transaction step fetches RESET24 in phases 0 to 2 and its command from phase 3 on. -/
theorem fetch_xfer {i : Instr} (hc : XferAt s.seq cmd delay dest) (hi : decode (.f16c cmd) = .ok i) :
    fetch s = .ok (if s.ph.toNat < 3 then .reset24 else i) := by
  have hitem : fetchItem s = if s.ph.toNat < 3 then some (.f24 resetPattern) else some (.f16c cmd) := by
    simp only [fetchItem, hc.microprogram]
  by_cases hp : s.ph.toNat < 3
  · rw [if_pos hp] at hitem ⊢
    exact fetch_of_fetchItem hitem rfl
  · rw [if_neg hp] at hitem ⊢
    exact fetch_of_fetchItem hitem hi

/-- `SEQ` 10 to 15 select nothing (R211). -/
theorem microprogram_eq_none {q : BitVec 4} (h : 10 ≤ q.toNat) : microprogram q = none := by
  revert q; decide

/-- Settles O6: the transaction steps by their command, the others by the value of `SEQ`. -/
theorem microprogramSelects : Obligations.MicroprogramSelects := by
  refine fun s => ⟨fun row hrow hq => ?xfer, fun row hrow hq => ?micro, fun hbad hr => ?bad⟩
  case xfer =>
    have hcmd : ∃ cmd delay dest, XferAt row.1 cmd delay dest ∧ decode (.f16c cmd) = .ok row.2 := by
      simp only [List.mem_cons, List.not_mem_nil, or_false] at hrow
      rcases hrow with rfl | rfl | rfl | rfl | rfl | rfl
      exacts [⟨_, _, _, .w1, rfl⟩, ⟨_, _, _, .w2, rfl⟩, ⟨_, _, _, .w3, rfl⟩, ⟨_, _, _, .w4, rfl⟩, ⟨_, _, _, .d1, rfl⟩,
        ⟨_, _, _, .d2, rfl⟩]
    obtain ⟨cmd, delay, dest, hc, hi⟩ := hcmd
    exact fetch_xfer (hq ▸ hc) hi
  case micro =>
    simp only [List.mem_cons, List.not_mem_nil, or_false] at hrow
    have hitem : fetchItem s = some (.seq row.1) := by
      rcases hrow with rfl | rfl | rfl | rfl <;> simp only [fetchItem, hq] <;> rfl
    refine fetch_of_fetchItem hitem ?_
    rcases hrow with rfl | rfl | rfl | rfl <;> rfl
  case bad => exact step_badSeq hr (microprogram_eq_none hbad)

/-- Settles O7: without reset, `step` is `exec` of what `fetch` gives. -/
theorem stepRunsDecodedInstruction : Obligations.StepRunsDecodedInstruction := by
  intro s it i hr hitem hi
  simp [step, hr, fetch_of_fetchItem hitem hi]

end Sys2Proof.Machine
end

section
/-! SUPPORT. The clocks of REPORT and WAIT and their frames, what the report port shows, and the inter-cycle wait
(43_sequencer.md R215, R216); O16, O17, O35, O36, O44, O59. -/

namespace Sys2Proof.Machine

open Sys2Proof.Safety

variable {s : State}

/-! ### REPORT -/

/-- A result that fits an output register is written as the same integer (42_compensation.md R181). -/
theorem toOut_toInt {v : Acc} (hl : -(2 ^ 31) ≤ v.toInt) (hu : v.toInt < 2 ^ 31) : (toOut v).toInt = v.toInt := by
  have hfits : fitsOut v = true := decide_eq_true ⟨hl, hu⟩
  rw [toOut, if_pos hfits, ← BitVec.signExtend_eq_setWidth_of_le v (by decide),
    BitVec.toInt_signExtend_eq_toInt_bmod_of_le v (by decide), Int.bmod_eq_of_le] <;> omega

/-- Settles O16: the output registers, the report and `SEQ` are all that REPORT writes. -/
theorem reportCompletes : Obligations.ReportCompletes := fun _ _ _ f hw hm hf =>
  ⟨toOut f.temp, toOut f.pres, toOut_toInt, toOut_toInt, execReport_eq hw hm hf⟩

/-- Settles O35: REPORT's next state differs from the elapsed one in the output registers, one event and `SEQ` only. -/
theorem reportFrame : Obligations.ReportFrame := by
  intro s t h
  obtain ⟨w, m, f, -, -, -, rfl⟩ := execReport_cases h
  simp

/-! ### WAIT -/

/-- Settles O17: phase 0 loads the timer; phase 1 looks at it. -/
theorem waitCompletes : Obligations.WaitCompletes := by
  refine fun s => ⟨fun h0 => if_pos h0, fun h1 hz => ?_, fun h1 hz => ?_⟩
  · rw [exec, execWait, waitPhase, if_neg (by simp [h1]), if_pos h1, if_pos hz]
    rfl
  · rw [exec, execWait, waitPhase, if_neg (by simp [h1]), if_pos h1, if_neg hz, hold]

/-- Settles O36: a hold takes the tick only, the load writes `TIMER` and `PH`, the end of the wait `PH` and `SEQ`. -/
theorem waitFrame : Obligations.WaitFrame := by
  intro s t h
  rcases waitPhase_cases h with ⟨rfl, -, -⟩ | ⟨h0, rfl⟩ | ⟨h1, hz, rfl⟩
  · simp
  · simp [h0]
  · simp [h1, hz]

/-! ### The report port -/

theorem rptData_of_not_rptValid (h : rptValid s = false) : rptData s = lastReport s.events := by
  simp [rptData, h]

/-- After a clock the newest report is the one that the port showed in it. -/
theorem PortEvents.lastReport_eq {es : List Event} (h : PortEvents s es) : lastReport es = rptData s := by
  cases h with
  | quiet _ hv => exact (rptData_of_not_rptValid hv).symm
  | exchange _ _ _ _ hv => exact (rptData_of_not_rptValid hv).symm
  | report _ _ hd => exact hd.symm

/-- Settles O44: outside REPORT's clock the port shows the newest report. -/
theorem reportPortHolds : Obligations.ReportPortHolds := fun _ _ hstep hv =>
  (rptData_of_not_rptValid hv).trans (step_next_cases hstep).portEvents.lastReport_eq

/-! ### The inter-cycle wait -/

theorem holdsWhileTimed_wait : HoldsWhileTimed 9 1 := fun _ h9 h1 hz hr =>
  (ClockNext.holdWait hr h9 (by simp [h1]) fun _ => hz).step_eq

/-- At `TIMER = 1` a tick takes a wait's timer to 0. -/
theorem HoldsWhileTimed.lastTick {i : Input} {rest : List Input} (h : HoldsWhileTimed s.seq s.ph) (h1 : s.timer = 1)
    (hin : s.inputs = i :: rest) (hi : i.tick = true) (hri : i.rst = false) :
    step s = .next { s with timer := 0, inputs := rest, clock := s.clock + 1 } := by
  have hsi : s.input = i := input_of_cons hin
  rw [h s rfl rfl (by simp [h1]) (by rw [hsi, hri]), State.elapse, hsi, hi, h1, hin]
  rfl

/-- Settles O59: the wait counts down to 1, the last tick to 0, and the next clock ends the cycle. -/
theorem cycleWaitLasts : Obligations.CycleWaitLasts := by
  intro s is i j rest h9 h1 hin hr hn hi
  obtain ⟨hris, hri, hrj⟩ : noReset is = true ∧ i.rst = false ∧ j.rst = false := by
    simpa [noReset, List.all_append] using hr
  have hwait : HoldsWhileTimed s.seq s.ph := by rw [h9, h1]; exact holdsWhileTimed_wait
  obtain ⟨n, hsum, hrun⟩ := hwait.run hin hris (by omega)
  obtain rfl : n = 1 := BitVec.eq_of_toNat_eq (show n.toNat = 1 by omega)
  have hlast := HoldsWhileTimed.lastTick
    (s := { s with timer := 1, inputs := i :: j :: rest, clock := s.clock + is.length }) hwait rfl rfl hi hri
  have hend := ClockNext.step_eq (.waitEnd
    (s := { s with timer := 0, inputs := j :: rest, clock := s.clock + is.length + 1 }) hrj h9 h1 rfl)
  exact ⟨⟨_, hrun, h1, h9, rfl, rfl⟩,
    _, run_add hrun (run_succ hlast (run_succ hend rfl)), rfl, rfl, elapse_timer_of_zero rfl, rfl, rfl⟩

end Sys2Proof.Machine
end

section
/-! SUPPORT. Which clocks complete a step, and what they write to `SEQ` and `PH` (43_sequencer.md R212); O40. -/

namespace Sys2Proof.Machine

open Sys2Proof.Safety

variable {s t : State} {cmd : Word16} {delay : Millis} {dest : Dest}

theorem stepCompletes_of_microOp (h : s.seq = 4 ∨ s.seq = 7 ∨ s.seq = 8) : StepCompletes s := .inr (.inl h)

theorem stepCompletes_iff_of_xferStep (hx : xferStep s.seq = true) :
    StepCompletes s ↔ s.ph = 7 ∧ s.input.answer.isSome := by
  obtain ⟨hmicro, n9, -⟩ := seq_of_xferStep hx
  simp only [StepCompletes, hx, hmicro, n9, true_and, false_and, or_false]

theorem stepCompletes_iff_of_wait (h9 : s.seq = 9) : StepCompletes s ↔ s.ph = 1 ∧ s.timer = 0 := by
  simp [StepCompletes, h9, xferStep]

/-- Phase 7 ends the step of a transaction, and no other phase does. -/
theorem TransactionNext.step_end (h : TransactionNext cmd delay dest s t) :
    (s.ph = 7 ∧ t.ph = 0 ∧ t.seq = s.seq + 1) ∨ (s.ph ≠ 7 ∧ t.seq = s.seq) := by
  cases h with
  | reset rx t _ hr => cases hr with | first hp | second hp | third hp => exact .inr ⟨by simp [hp], rfl⟩
  | commandHi _ _ hp | commandLoWait _ _ hp | commandLo _ _ hp | waited hp | responseHi _ _ hp =>
    exact .inr ⟨by simp [hp], rfl⟩
  | responseLo _ _ _ h7 => exact .inl ⟨h7, rfl, rfl⟩

/-- The sequencer goes from the end of a step to the beginning of the next, from step 9 to step 0. -/
def Advances (s t : State) : Prop :=
  t.ph = 0 ∧ (s.seq ≠ 9 → t.seq.toNat = s.seq.toNat + 1) ∧ (s.seq = 9 → t.seq = 0)

/-- A clock without reset completes its step and advances, or leaves `SEQ`. -/
theorem ClockNext.advances_or_stays (h : ClockNext s t) (hl : ControlLegal s) (hr : s.input.rst = false) :
    (StepCompletes s ∧ Advances s t) ∨ (¬StepCompletes s ∧ t.seq = s.seq) := by
  cases h with
  | reset hrst => simp [hr] at hrst
  | holdXfer _ hx hh =>
    refine .inr ⟨fun hend => ?_, rfl⟩
    obtain ⟨h7, ha⟩ := (stepCompletes_iff_of_xferStep hx).mp hend
    rcases hh with ⟨h5, -⟩ | ⟨-, hnone⟩
    · simp [h7] at h5
    · simp [hnone] at ha
  | holdWait _ h9 _ h1 =>
    refine .inr ⟨fun hend => ?_, rfl⟩
    obtain ⟨hp, hz⟩ := (stepCompletes_iff_of_wait h9).mp hend
    exact h1 hp hz
  | xfer _ hc hn =>
    rw [stepCompletes_iff_of_xferStep hc.xferStep]
    rcases hn.step_end with ⟨h7, hp, hq⟩ | ⟨n7, hq⟩
    · obtain ⟨-, n9, -⟩ := seq_of_xferStep hc.xferStep
      exact .inl ⟨⟨h7, hn.answered (by simp [h7])⟩, hp, fun _ => by rw [hq, hc.seq_succ.1], fun h9 => absurd h9 n9⟩
    · exact .inr ⟨fun hend => n7 hend.1, hq⟩
  | decode _ hq | compute _ hq | report _ hq =>
    exact .inl ⟨stepCompletes_of_microOp (by simp [hq]), hl.phMicro (by simp [hq]), by simp [hq], by simp [hq]⟩
  | waitLoad _ h9 h0 => exact .inr ⟨by simp [stepCompletes_iff_of_wait h9, h0], rfl⟩
  | waitEnd _ h9 h1 hz =>
    exact .inl ⟨(stepCompletes_iff_of_wait h9).mpr ⟨h1, hz⟩, rfl, fun n9 => absurd h9 n9, fun _ => rfl⟩

/-- Settles O40: block reset, or a clock that advances or stays. -/
theorem sequencerAdvances : Obligations.SequencerAdvances := by
  intro s t hl hstep
  refine ⟨fun hr => ?reset, fun hr hend => ?ends, fun hr hgo => ?stays⟩
  case reset =>
    rw [step_rst hr] at hstep
    cases hstep
    rfl
  case ends =>
    rcases (step_next_cases hstep).advances_or_stays hl hr with ⟨-, h⟩ | ⟨hgo, -⟩
    · exact h
    · exact absurd hend hgo
  case stays =>
    rcases (step_next_cases hstep).advances_or_stays hl hr with ⟨hend, -⟩ | ⟨-, h⟩
    · exact absurd hend hgo
    · exact h

end Sys2Proof.Machine
end

section
/-! SUPPORT. What a clock does to `TIMER`: the tick, the two loads that absorb it, and block reset, which takes
precedence (60_exceptions.md R243, R246 to R248, 70_reset_and_hazards.md R272, R273); O8, O42, O46. -/

namespace Sys2Proof.Machine

open Sys2Proof.Safety

variable {s t : State} {cmd : Word16} {delay : Millis} {dest : Dest}

/-! ### The tick -/

/-- Settles O8: the rule of R247 is the body of `tickTimer`. -/
theorem clockElapses : Obligations.ClockElapses := fun _ => rfl

/-! ### The loads -/

/-- The clock that starts the conversion wait: an answered phase 4 of step 5 or 6 (40_transport.md R103). -/
def LoadsConversion (s : State) : Prop := (s.seq = 5 ∨ s.seq = 6) ∧ s.ph = 4 ∧ s.input.answer.isSome

/-- The clock that starts the inter-cycle wait (43_sequencer.md R216). -/
def LoadsCycle (s : State) : Prop := s.seq = 9 ∧ s.ph = 0

theorem LoadsCycle.not_loadsConversion (h : LoadsCycle s) : ¬LoadsConversion s := by
  obtain ⟨h9, -⟩ := h
  simp [LoadsConversion, h9]

/-- The delays of R81's table: 35 ms in steps 5 and 6, none elsewhere. -/
theorem XferAt.delay_cases {q : BitVec 4} (hc : XferAt q cmd delay dest) :
    ((q = 5 ∨ q = 6) ∧ delay.toNat = 35) ∨ (¬(q = 5 ∨ q = 6) ∧ delay.toNat = 0) := by
  cases hc <;> decide

/-- An enabled phase loads its transaction's delay, if there is one, in phase 4, and otherwise takes the tick only. -/
theorem TransactionNext.timer_cases (h : TransactionNext cmd delay dest s t) :
    (s.ph = 4 ∧ 0 < delay.toNat ∧ t.timer = delay) ∨
      (¬(s.ph = 4 ∧ 0 < delay.toNat) ∧ t.timer = s.elapse.timer) := by
  cases h with
  | commandLoWait _ _ h4 hd => exact .inl ⟨h4, hd, rfl⟩
  | commandLo _ _ _ hd => exact .inr ⟨by simp [hd], rfl⟩
  | reset _ _ _ hr => cases hr with | first hp | second hp | third hp => exact .inr ⟨by simp [hp], rfl⟩
  | commandHi _ _ hp | waited hp | responseHi _ _ hp | responseLo _ _ _ hp => exact .inr ⟨by simp [hp], rfl⟩

/-- A clock without reset loads `TIMER`, whether or not a tick comes, or only lets the tick reach it. -/
theorem ClockNext.timer_cases (h : ClockNext s t) (hr : s.input.rst = false) :
    (LoadsConversion s ∧ t.timer.toNat = 35) ∨ (LoadsCycle s ∧ t.timer.toNat = 5000) ∨
      (¬LoadsConversion s ∧ ¬LoadsCycle s ∧ t.timer = s.elapse.timer) := by
  cases h with
  | reset hrst => simp [hr] at hrst
  | holdXfer _ hx hh =>
    obtain ⟨-, n9, -⟩ := seq_of_xferStep hx
    refine .inr (.inr ⟨fun ⟨_, h4, ha⟩ => ?_, fun ⟨h9, _⟩ => n9 h9, rfl⟩)
    rcases hh with ⟨h5, -⟩ | ⟨-, hnone⟩
    · simp [h4] at h5
    · simp [hnone] at ha
  | xfer _ hc hn =>
    obtain ⟨-, n9, -⟩ := seq_of_xferStep hc.xferStep
    have hnoCycle : ¬LoadsCycle s := fun ⟨h9, _⟩ => n9 h9
    rcases hc.delay_cases, hn.timer_cases with ⟨⟨hq, hd⟩ | ⟨nq, hd⟩, ⟨h4, hpos, ht⟩ | ⟨hno, ht⟩⟩
    · exact .inl ⟨⟨hq, h4, hn.answered (by simp [h4])⟩, ht ▸ hd⟩
    · exact .inr (.inr ⟨fun ⟨_, h4, _⟩ => hno ⟨h4, by omega⟩, hnoCycle, ht⟩)
    · omega
    · exact .inr (.inr ⟨fun ⟨hq, _⟩ => nq hq, hnoCycle, ht⟩)
  | decode _ hq | compute _ hq | report _ hq =>
    exact .inr (.inr ⟨by simp [LoadsConversion, hq], by simp [LoadsCycle, hq], rfl⟩)
  | waitLoad _ h9 h0 => exact .inr (.inl ⟨⟨h9, h0⟩, rfl⟩)
  | holdWait _ h9 n0 => exact .inr (.inr ⟨by simp [LoadsConversion, h9], fun ⟨_, h0⟩ => n0 h0, rfl⟩)
  | waitEnd _ h9 h1 => exact .inr (.inr ⟨by simp [LoadsConversion, h9], by simp [LoadsCycle, h1], rfl⟩)

/-- Settles O42: a clock that loads `TIMER` for one of the two waits, or one that only elapses. -/
theorem tickAndLoad : Obligations.TickAndLoad := by
  intro s t hr hstep
  rcases (step_next_cases hstep).timer_cases hr with ⟨hconv, ht⟩ | ⟨hcycle, ht⟩ | ⟨nconv, ncycle, ht⟩
  · exact ht.trans (if_pos hconv).symm
  · exact ht.trans ((if_neg hcycle.not_loadsConversion).trans (if_pos hcycle)).symm
  · rw [ht, State.elapse_timer, tickTimer_toNat]
    exact ((if_neg nconv).trans (if_neg ncycle)).symm

/-! ### Block reset -/

/-- Settles O46: a clock with `rst` is block reset, whatever the step, the phase, the tick and the link. -/
theorem resetWinsOverEverything : Obligations.ResetWinsOverEverything := fun s hr =>
  ⟨blockReset s, step_rst hr, rfl, rfl, rfl, rfl, rfl, rfl, rfl⟩

end Sys2Proof.Machine
end

section
/-! SUPPORT. The reset values and the first clock after reset (70_reset_and_hazards.md R270, R271); O45, O47. -/

namespace Sys2Proof.Machine

open Sys2Proof.Safety

variable {s : State}

/-! ### The reset values -/

/-- The model's reset leaves no pipeline register without a value (log 1). -/
theorem pipeWritten_reset : PipeWritten State.reset.pipe := by constructor <;> rfl

/-- Settles O45: the five values of R270, and a value in every other register. -/
theorem resetState : Obligations.ResetState :=
  ⟨rfl, rfl, rfl, rfl, rfl, rfl, rfl, rfl, pipeWritten_reset, rfl, rfl, rfl⟩

/-! ### The first clock after reset -/

/-- While `TIMER` rests at 0, a clock without an enabled step uses up its input and changes no register, tick or not
(60_exceptions.md R247). -/
theorem elapse_eq_of_timer_zero (h : s.timer = 0) :
    s.elapse = { s with inputs := s.inputs.tail, clock := s.clock + 1 } := by
  rw [State.elapse, h, tickTimer_zero, ← h]

/-- Settles O47: reset selects step 0 at phase 0, whose answered clock sends the reset pattern's first byte; `TIMER`
rests at 0, so a tick is lost. -/
theorem firstStepAfterReset : Obligations.FirstStepAfterReset := by
  intro tick rx rest
  have hphase : ResetPhaseNext { State.reset with inputs := ⟨false, tick, some rx⟩ :: rest } rx _ := .first rfl
  have hclock := ClockNext.xfer rfl .w1 (.reset rx _ rfl hphase)
  rw [hclock.step_eq, elapse_eq_of_timer_zero rfl]
  rfl

end Sys2Proof.Machine
end
